-- ==== Sys2Proof/Word.lean ====
section
/-! DEFINITION. The bit vectors the spec treats as bits (00_scope.md R14), by width. -/

namespace Sys2Proof

/-- A byte of `BUF`, of the wire, or an 8-bit register (10_state.md R20, R39). -/
abbrev Byte := BitVec 8

/-- A 16-bit register: a CRC accumulator, a timeout, an error value (10_state.md R22, R29, R36, R37). -/
abbrev Half := BitVec 16

/-- A 9-bit index or length: `K`, `I`, `RES_LEN`, the `len` of CRC.FOLDR (10_state.md R27, R28, R35; 30_encoding.md R69). -/
abbrev Index := BitVec 9

/-- A command word or a response word (10_state.md R40). -/
abbrev Word := BitVec 32

end Sys2Proof
end

