-- ==== Sys2Proof/Syntax.lean ====
section
/-! DEFINITION. The commands: one constructor per row of spec/opcode_table.json (30_encoding.md R68), with its fields as R69 gives their widths. -/

namespace Sys2Proof

inductive Instr where
  /-- CRC.INIT (40_crc.md R81). -/
  | crcInit
  /-- CRC.FOLD b (40_crc.md R82). -/
  | crcFold (b : Byte)
  /-- CRC.FOLDR base, len (40_crc.md R83). -/
  | crcFoldr (base : Byte) (len : Index)
  /-- CRC.READ (40_crc.md R84). -/
  | crcRead
  /-- BUF.WR addr, data (41_buffer.md R85). -/
  | bufWr (addr : Byte) (data : Byte)
  /-- BUF.RD addr (41_buffer.md R86). -/
  | bufRd (addr : Byte)
  /-- FRM.ADDR slave, func (42_framer_cmd.md R87). -/
  | frmAddr (slave : Byte) (func : Byte)
  /-- FRM.TMO tmo (42_framer_cmd.md R88). -/
  | frmTmo (tmo : Half)
  /-- FRM.REQ base, len (42_framer_cmd.md R89). -/
  | frmReq (base : Byte) (len : Byte)
  /-- FRM.RSP base, len (42_framer_cmd.md R90). -/
  | frmRsp (base : Byte) (len : Byte)
  /-- FRM.GO (42_framer_cmd.md R91). -/
  | frmGo
  /-- FRM.STAT (42_framer_cmd.md R92). -/
  | frmStat
  /-- FRM.XERR (42_framer_cmd.md R93). -/
  | frmXerr
deriving DecidableEq, Repr

end Sys2Proof
end

