-- ==== Sys2Proof/WellFormed.lean ====
section
/-! DEFINITION. Which instructions have an encoding (30_encoding.md R69, R70). -/

namespace Sys2Proof

/-- The one condition the field widths do not already say: the `len` of CRC.FOLDR is 0 to 256 (30_encoding.md R69). -/
def Instr.wf : Instr → Bool
  | .crcFoldr _ len => decide (len.toNat ≤ 256)
  | .crcInit | .crcFold _ | .crcRead | .bufWr _ _ | .bufRd _ | .frmAddr _ _ | .frmTmo _
  | .frmReq _ _ | .frmRsp _ _ | .frmGo | .frmStat | .frmXerr => true

end Sys2Proof
end

