-- ==== Sys2Proof/Decode.lean ====
section
/-! DEFINITION. The decoder, total on every 32-bit word and rejecting by name (30_encoding.md R70, R71); then the encoder
(R68, R73), the assembler's operand ranges (R73) and the pseudo-instructions (R74). -/

namespace Sys2Proof

/-- Why a word is ILLEGAL (30_encoding.md R71). The block answers all three alike (60_exceptions.md R117). -/
inductive Illegal where
  /-- opcode 0x0, 0xE or 0xF -/
  | reservedOpcode
  /-- a reserved bit of a defined opcode is set -/
  | reservedBits
  /-- CRC.FOLDR with `len` 257 to 511 -/
  | foldrLength
deriving DecidableEq, Repr

/-- `cmd[lo+width-1 : lo]` (00_scope.md R14, 30_encoding.md R67). -/
def fieldOf (lo width : Nat) (cmd : Word) : BitVec width := cmd.extractLsb' lo width

/-- The command `i`, unless `cmd` has a 1 in a bit of `resMask` (30_encoding.md R70). -/
def unlessReserved (cmd resMask : Word) (i : Instr) : Except Illegal Instr :=
  if cmd &&& resMask = 0 then .ok i else .error .reservedBits

/-- `decode(cmd)` of 30_encoding.md R70, with the fields of R68. -/
def decode (cmd : Word) : Except Illegal Instr :=
  match (fieldOf 28 4 cmd).toNat with
  | 0x1 => unlessReserved cmd 0x0FFFFFFF .crcInit
  | 0x2 => unlessReserved cmd 0x0FFFFF00 (.crcFold (fieldOf 0 8 cmd))
  | 0x3 =>
    if cmd &&& 0x0E0000FF = 0 ∧ 256 < (fieldOf 16 9 cmd).toNat then .error .foldrLength
    else unlessReserved cmd 0x0E0000FF (.crcFoldr (fieldOf 8 8 cmd) (fieldOf 16 9 cmd))
  | 0x4 => unlessReserved cmd 0x0FFFFFFF .crcRead
  | 0x5 => unlessReserved cmd 0x0FFF0000 (.bufWr (fieldOf 8 8 cmd) (fieldOf 0 8 cmd))
  | 0x6 => unlessReserved cmd 0x0FFF00FF (.bufRd (fieldOf 8 8 cmd))
  | 0x7 => unlessReserved cmd 0x0FFF0000 (.frmAddr (fieldOf 8 8 cmd) (fieldOf 0 8 cmd))
  | 0x8 => unlessReserved cmd 0x0FFF0000 (.frmTmo (fieldOf 0 16 cmd))
  | 0x9 => unlessReserved cmd 0x0FFF0000 (.frmReq (fieldOf 8 8 cmd) (fieldOf 0 8 cmd))
  | 0xA => unlessReserved cmd 0x0FFF0000 (.frmRsp (fieldOf 8 8 cmd) (fieldOf 0 8 cmd))
  | 0xB => unlessReserved cmd 0x0FFFFFFF .frmGo
  | 0xC => unlessReserved cmd 0x0FFFFFFF .frmStat
  | 0xD => unlessReserved cmd 0x0FFFFFFF .frmXerr
  | _ => .error .reservedOpcode

/-- The host's table word, numbered as spec/opcode_table.json numbers it: a command is one 32-bit word and its bits
above `nbits` are 0 (log 13). -/
def decodeTableWord (nbits w : Nat) : Option Instr :=
  (decode (BitVec.ofNat 32 (w % 2 ^ nbits))).toOption

/-- The command's word, its fields placed as the format of its row lays them out (30_encoding.md R68, R73). -/
def encode : Instr → Word
  | .crcInit => 0x10000000
  | .crcFold b => 0x20000000 ||| b.setWidth 32
  | .crcFoldr base len => 0x30000000 ||| (len.setWidth 32 <<< 16) ||| (base.setWidth 32 <<< 8)
  | .crcRead => 0x40000000
  | .bufWr addr data => 0x50000000 ||| (addr.setWidth 32 <<< 8) ||| data.setWidth 32
  | .bufRd addr => 0x60000000 ||| (addr.setWidth 32 <<< 8)
  | .frmAddr slave func => 0x70000000 ||| (slave.setWidth 32 <<< 8) ||| func.setWidth 32
  | .frmTmo tmo => 0x80000000 ||| tmo.setWidth 32
  | .frmReq base len => 0x90000000 ||| (base.setWidth 32 <<< 8) ||| len.setWidth 32
  | .frmRsp base len => 0xA0000000 ||| (base.setWidth 32 <<< 8) ||| len.setWidth 32
  | .frmGo => 0xB0000000
  | .frmStat => 0xC0000000
  | .frmXerr => 0xD0000000

/-- The opcode of each row (30_encoding.md R68). -/
def Instr.opcode : Instr → BitVec 4
  | .crcInit => 0x1
  | .crcFold _ => 0x2
  | .crcFoldr _ _ => 0x3
  | .crcRead => 0x4
  | .bufWr _ _ => 0x5
  | .bufRd _ => 0x6
  | .frmAddr _ _ => 0x7
  | .frmTmo _ => 0x8
  | .frmReq _ _ => 0x9
  | .frmRsp _ _ => 0xA
  | .frmGo => 0xB
  | .frmStat => 0xC
  | .frmXerr => 0xD

/-- An assembler operand of `width` bits: a number outside its range is refused, not truncated (30_encoding.md R73). -/
def operand (width n : Nat) : Option (BitVec width) :=
  if n < 2 ^ width then some (BitVec.ofNat width n) else none

/-- The assembler of 30_encoding.md R73: the opcode named by a mnemonic of the table, and its operands as numbers. -/
def assemble : String → List Nat → Option Instr
  | "CRC.INIT", [] => some .crcInit
  | "CRC.FOLD", [b] => do return .crcFold (← operand 8 b)
  | "CRC.FOLDR", [base, len] => do
    let base ← operand 8 base
    let len ← operand 9 len
    if len.toNat ≤ 256 then return .crcFoldr base len else none
  | "CRC.READ", [] => some .crcRead
  | "BUF.WR", [addr, data] => do return .bufWr (← operand 8 addr) (← operand 8 data)
  | "BUF.RD", [addr] => do return .bufRd (← operand 8 addr)
  | "FRM.ADDR", [slave, func] => do return .frmAddr (← operand 8 slave) (← operand 8 func)
  | "FRM.TMO", [tmo] => do return .frmTmo (← operand 16 tmo)
  | "FRM.REQ", [base, len] => do return .frmReq (← operand 8 base) (← operand 8 len)
  | "FRM.RSP", [base, len] => do return .frmRsp (← operand 8 base) (← operand 8 len)
  | "FRM.GO", [] => some .frmGo
  | "FRM.STAT", [] => some .frmStat
  | "FRM.XERR", [] => some .frmXerr
  | _, _ => none

/-- The pseudo-instructions of 30_encoding.md R74. -/
inductive Pseudo where
  | frmSetup (slave func : Byte) (tmo : Half) (rqb rql rsb rsl : Byte)
  | frmXact (slave func : Byte) (tmo : Half) (rqb rql rsb rsl : Byte)
  | crcOver (base : Byte) (len : Index)
  | bufFill (addr : Byte) (bytes : List Byte)
deriving DecidableEq, Repr

/-- BUF.WR of each byte to consecutive addresses, modulo 256 (30_encoding.md R74, BUF.FILL). -/
def fillFrom (addr : Byte) : List Byte → List Instr
  | [] => []
  | b :: bs => .bufWr addr b :: fillFrom (addr + 1) bs

/-- The expansion of 30_encoding.md R74: a fixed sequence of plain commands, each a HOST step of its own. -/
def Pseudo.expand : Pseudo → List Instr
  | .frmSetup slave func tmo rqb rql rsb rsl =>
    [.frmAddr slave func, .frmTmo tmo, .frmReq rqb rql, .frmRsp rsb rsl]
  | .frmXact slave func tmo rqb rql rsb rsl =>
    [.frmAddr slave func, .frmTmo tmo, .frmReq rqb rql, .frmRsp rsb rsl, .frmGo]
  | .crcOver base len => [.crcInit, .crcFoldr base len, .crcRead]
  | .bufFill addr bytes => fillFrom addr bytes

end Sys2Proof
end

