-- ==== Sys2Proof/Config.lean ====
section
/-! DEFINITION. What the hardware fixes (00_scope.md section 4), the parameters it leaves open, and the one free value. -/

namespace Sys2Proof

/-- `MIN_FRAME` takes the value 4 or 5 and no other (00_scope.md R7, D19). -/
inductive MinFrame where
  | four
  | five
deriving DecidableEq, Repr

/-- The smallest number of received bytes that is not BAD_FRAME (00_scope.md R7). -/
def MinFrame.toNat : MinFrame → Nat
  | .four => 4
  | .five => 5

/-- The two parameters the spec leaves open (00_scope.md R5, R7; D12, D19; log 8).
State holds one, which no step changes. -/
structure Params where
  /-- `IDLE_MS`, the inter-byte idle window in milliseconds, in the width of a read window (10_state.md R41). -/
  idleMs   : Half
  /-- `MIN_FRAME`. -/
  minFrame : MinFrame
deriving DecidableEq, Repr

/-- The values this hardware takes: `IDLE_MS = 2`, `MIN_FRAME = 4` (00_scope.md R5, R7). -/
def Params.hardware : Params := { idleMs := 2, minFrame := .four }

/-- `MAX_FRAME` (00_scope.md R6). -/
def Config.maxFrame : Nat := 256

/-- `EXC_FRAME` (00_scope.md R8). -/
def Config.excFrame : Nat := 5

/-- `EXC_FLAG` (00_scope.md R9). -/
def Config.excFlag : Byte := 0x80

/-- `CRC_INIT` (00_scope.md R10). -/
def Config.crcInit : Half := 0xFFFF

/-- `CRC_POLY`, the reflected polynomial (00_scope.md R10). -/
def Config.crcPoly : Half := 0xA001

/-- `BUF_BYTES` (00_scope.md R11). -/
def Config.bufBytes : Nat := 256

/-- FREE VALUE (20_memory.md R44, I1; log 3): the byte the `n`-th draw since power-on gives.
Each read of an unwritten byte takes the next draw, so nothing is known of it and two reads may differ. -/
opaque Config.freeByte : Nat → Byte

end Sys2Proof
end

