-- ==== Sys2Proof/Machine/State.lean ====
section
/-! DEFINITION. The state of the block and its surroundings as plain data, the reasons a step can stop, and the state after reset (10_state.md). -/

namespace Sys2Proof.Machine

/-- No step of this hardware stops the machine: a rejected command answers and the block goes on (60_exceptions.md R117,
R118), a failed transaction latches an outcome (R122), a port that never answers leaves only the ENGINE waiting (R133).
So there is no fault, and the type has no constructor (log 14). -/
inductive Fault where
deriving DecidableEq, Repr

inductive Refusal where
  /-- Raised by an arm of `exec` whose instruction has no meaning yet; none is left (safe). -/
  | notModelled (mnemonic : String)
deriving DecidableEq, Repr

/-- `FSM`'s values; 4 to 7 are never held and have no name here (10_state.md R19, I14; log 6). -/
inductive Fsm where
  | idle
  | sending
  | waitFirst
  | receiving
deriving DecidableEq, Repr

/-- `RES_KIND`'s values; 8 to 15 are never held and have no name here (10_state.md R33, I14; log 6). -/
inductive ResKind where
  | none
  | ok
  | exception
  | timeout
  | badFrame
  | badCrc
  | invalidResponse
  | transport
deriving DecidableEq, Repr

/-- How a transaction ends: the argument of `finish`, with the payload length of an OK and the port's value of a
TRANSPORT (60_exceptions.md R122). -/
inductive Ending where
  | ok (len : Index)
  | exception
  | timeout
  | badFrame
  | badCrc
  | invalidResponse
  | transport (e : Half)
deriving DecidableEq, Repr

/-- `ack` (30_encoding.md R72); 0b11 is never returned. -/
inductive Ack where
  | ok
  | illegal
  | busy
deriving DecidableEq, Repr

/-- The answer to one command (10_state.md R40, 30_encoding.md R72). -/
structure Response where
  ack   : Ack
  rdata : Word
deriving DecidableEq, Repr

/-- The port's answer to a `PortWrite` (10_state.md R41, 43_framer_engine.md R95). -/
inductive WriteAnswer where
  | ok
  | xerr (e : Half)
deriving DecidableEq, Repr

/-- The port's answer to a `PortRead` (10_state.md R41, 43_framer_engine.md R96). -/
inductive ReadAnswer where
  | byte (b : Byte)
  | noByte
  | xerr (e : Half)
deriving DecidableEq, Repr

/-- One port request with the answer it got in the same step (43_framer_engine.md R94). -/
inductive PortEvent where
  | write (b : Byte) (answer : WriteAnswer)
  | read (window : Half) (answer : ReadAnswer)
deriving DecidableEq, Repr

/-- What the outside does next (00_scope.md R16, 10_state.md R40, R42; log 1). -/
inductive Input where
  /-- a HOST step with this command word -/
  | command (cmd : Word)
  /-- the ENGINE has the turn -/
  | engineTurn
  /-- the reset input is asserted -/
  | reset
deriving DecidableEq, Repr

/-- The written bytes of `BUF` with their addresses, strictly rising and below 256. A byte is listed exactly when its
written bit is 1 (20_memory.md R44). An unlisted byte reads as a draw, so no entry can equal what it would read as. -/
abbrev Memory := List Host.Cell

structure State where
  /-- `CRC_ACC` (R37) -/
  crcAcc : Half
  /-- `SLAVE` (R20) -/
  slave : Byte
  /-- `FUNC` (R21) -/
  func : Byte
  /-- `TIMEOUT` (R22) -/
  timeout : Half
  /-- `REQ_BASE` (R23) -/
  reqBase : Byte
  /-- `REQ_LEN` (R24) -/
  reqLen : Byte
  /-- `RSP_BASE` (R25) -/
  rspBase : Byte
  /-- `RSP_LEN` (R26) -/
  rspLen : Byte
  /-- `FSM` (R19) -/
  fsm : Fsm
  /-- `K` (R27) -/
  k : Index
  /-- `I` (R28) -/
  i : Index
  /-- `FR_CRC` (R29) -/
  frCrc : Half
  /-- `BAD` (R30) -/
  bad : Bool
  /-- `EXC` (R31) -/
  exc : Bool
  /-- `EXC_CODE` (R32) -/
  excCode : Byte
  /-- `RES_KIND` (R33) -/
  resKind : ResKind
  /-- `RES_CODE` (R34) -/
  resCode : Half
  /-- `RES_LEN` (R35) -/
  resLen : Index
  /-- `XERR` (R36) -/
  xerr : Half
  /-- `BUF` with its written bits (R39, 20_memory.md R44) -/
  buf : Memory
  /-- `ack` and `rdata` as given to the last command; `none` before the first (R40; log 4) -/
  response : Option Response
  /-- the parameters `IDLE_MS` and `MIN_FRAME`, which no step writes (00_scope.md R5, R7; log 8) -/
  params : Params
  /-- MODEL: what the outside does next, oldest first (log 1) -/
  inputs : List Input
  /-- MODEL: the port's answers to the coming `PortWrite`s, oldest first (log 2) -/
  portWrites : List WriteAnswer
  /-- MODEL: the port's answers to the coming `PortRead`s, oldest first (log 2) -/
  portReads : List ReadAnswer
  /-- MODEL: every port request so far with its answer, oldest first (log 5) -/
  portLog : List PortEvent
  /-- MODEL: how many draws unwritten bytes have taken (log 3) -/
  draws : Nat
deriving DecidableEq, Repr

/-- The block right after reset (70_reset_and_hazards.md R137; 10_state.md R19 to R37), with nothing pending outside
it: no command, no port answer, no draw taken (logs 1 to 5). -/
def State.reset : State where
  crcAcc := 0xFFFF
  slave := 0x00
  func := 0x00
  timeout := 0x0000
  reqBase := 0x00
  reqLen := 0x00
  rspBase := 0x00
  rspLen := 0x00
  fsm := .idle
  k := 0
  i := 0
  frCrc := 0xFFFF
  bad := false
  exc := false
  excCode := 0x00
  resKind := .none
  resCode := 0x0000
  resLen := 0
  xerr := 0x0000
  buf := []
  response := none
  params := .hardware
  inputs := []
  portWrites := []
  portReads := []
  portLog := []
  draws := 0

/-- What a command's meaning and a step answer. -/
abbrev Result := Host.Outcome State Fault Refusal

end Sys2Proof.Machine
end

