-- ==== Sys2Proof/Machine/Operands.lean ====
section
/-! DEFINITION. Operand addresses and widenings, and the encodings of the named values in the response words
(20_memory.md R46; 30_encoding.md R69, R72; 10_state.md R19, R33, R34). -/

namespace Sys2Proof.Machine

/-- The address of byte `j` of a region at `base`, modulo 256 (20_memory.md R46). -/
def regionAddr (base : Byte) (j : Nat) : Byte := base + BitVec.ofNat 8 j

/-- `FSM`'s encoding (10_state.md R19). -/
def Fsm.bits : Fsm → BitVec 3
  | .idle => 0
  | .sending => 1
  | .waitFirst => 2
  | .receiving => 3

/-- `RES_KIND`'s encoding (10_state.md R33). -/
def ResKind.bits : ResKind → BitVec 4
  | .none => 0
  | .ok => 1
  | .exception => 2
  | .timeout => 3
  | .badFrame => 4
  | .badCrc => 5
  | .invalidResponse => 6
  | .transport => 7

/-- `ack`'s encoding (30_encoding.md R72). -/
def Ack.bits : Ack → BitVec 2
  | .ok => 0b00
  | .illegal => 0b01
  | .busy => 0b10

/-- The kind an ending latches (60_exceptions.md R122). -/
def Ending.kind : Ending → ResKind
  | .ok _ => .ok
  | .exception => .exception
  | .timeout => .timeout
  | .badFrame => .badFrame
  | .badCrc => .badCrc
  | .invalidResponse => .invalidResponse
  | .transport _ => .transport

/-- The code an ending latches, `excCode` being `EXC_CODE` (10_state.md R34; 60_exceptions.md R122). -/
def Ending.code (excCode : Byte) : Ending → Half
  | .ok _ => 0x0000
  | .exception => excCode.setWidth 16
  | .timeout => 0x0100
  | .badFrame => 0x0301
  | .badCrc => 0x0302
  | .invalidResponse => 0x0303
  | .transport _ => 0x0400

/-- The payload length an ending latches (60_exceptions.md R122). -/
def Ending.len : Ending → Index
  | .ok m => m
  | .exception | .timeout | .badFrame | .badCrc | .invalidResponse | .transport _ => 0

/-- The transport error value an ending latches (60_exceptions.md R122). -/
def Ending.err : Ending → Half
  | .transport e => e
  | .ok _ | .exception | .timeout | .badFrame | .badCrc | .invalidResponse => 0

/-- The named slave exceptions of the source's table (60_exceptions.md R119). -/
inductive SlaveException where
  | illegalFunction
  | illegalDataAddress
  | illegalDataValue
  | slaveDeviceFailure
  | acknowledge
  | slaveDeviceBusy
  | negativeAcknowledge
  | memoryParityError
  | gatewayPathUnavailable
  | gatewayNoResponse
deriving DecidableEq, Repr

/-- The kind a code of the table names; the other codes have no name and are still reported raw (60_exceptions.md
R119, R120, I4; log 17). -/
def slaveException (code : Byte) : Option SlaveException :=
  match code.toNat with
  | 0x01 => some .illegalFunction
  | 0x02 => some .illegalDataAddress
  | 0x03 => some .illegalDataValue
  | 0x04 => some .slaveDeviceFailure
  | 0x05 => some .acknowledge
  | 0x06 => some .slaveDeviceBusy
  | 0x07 => some .negativeAcknowledge
  | 0x08 => some .memoryParityError
  | 0x0A => some .gatewayPathUnavailable
  | 0x0B => some .gatewayNoResponse
  | _ => none

end Sys2Proof.Machine
end

