-- ==== Sys2Proof/Machine/Flags.lean ====
section
/-! DEFINITION. Every flag the block computes: ZERO of CRC.READ, the `busy` output, the framer's BAD and EXC, and the
response words that carry flags and fields (40_crc.md R84; 10_state.md R30, R31, R43; 42_framer_cmd.md R92). -/

namespace Sys2Proof.Machine

/-- ZERO, the verification predicate of the source (40_crc.md R84, D9). -/
def zeroFlag (c : Half) : BitVec 1 := if c = 0 then 1 else 0

/-- The `busy` output (10_state.md R43). -/
def State.busy (s : State) : Bool := decide (s.fsm ≠ .idle)

/-- CRC.READ's `rdata`: ZERO in bit 16 above the accumulator (40_crc.md R84). -/
def crcReadWord (c : Half) : Word := ((zeroFlag c).setWidth 32 <<< 16) ||| c.setWidth 32

/-- FRM.STAT's `rdata`: `FSM`, `RES_KIND`, `RES_LEN`, `RES_CODE` from the top (42_framer_cmd.md R92). -/
def statWord (s : State) : Word :=
  (s.fsm.bits.setWidth 32 <<< 29) ||| (s.resKind.bits.setWidth 32 <<< 25) |||
    (s.resLen.setWidth 32 <<< 16) ||| s.resCode.setWidth 32

/-- The exception marker of a function code, `FUNC | 0x80` (43_framer_engine.md R107). -/
def exceptionMarker (func : Byte) : Byte := func ||| Config.excFlag

/-- EXC after byte `b` of index `I` (43_framer_engine.md R107). -/
def excAfter (s : State) (b : Byte) : Bool :=
  s.exc || (decide (s.i.toNat = 1) && decide (b = exceptionMarker s.func))

/-- Byte 0 is not the expected slave ID (43_framer_engine.md R106). -/
def wrongSlave (s : State) (b : Byte) : Bool :=
  decide (s.i.toNat = 0) && decide (b ≠ s.slave)

/-- Byte 1 is neither the exception marker nor the function code (43_framer_engine.md R107). -/
def wrongFunction (s : State) (b : Byte) : Bool :=
  decide (s.i.toNat = 1) && decide (b ≠ exceptionMarker s.func) && decide (b ≠ s.func)

/-- The byte lies beyond the response buffer and the two CRC positions, and the frame is no exception frame; `exc` is
EXC after the byte (43_framer_engine.md R110). -/
def overrun (s : State) (exc : Bool) : Bool :=
  !exc && decide (4 + s.rspLen.toNat ≤ s.i.toNat)

/-- BAD after byte `b` of index `I` (43_framer_engine.md R106, R107, R110). -/
def badAfter (s : State) (b : Byte) : Bool :=
  s.bad || wrongSlave s b || wrongFunction s b || overrun s (excAfter s b)

end Sys2Proof.Machine
end

