-- ==== Sys2Proof/Machine/Ops.lean ====
section
/-! DEFINITION. The shared operations: buffer RAM (20_memory.md R44, R45), the answer to a command and its rejections
(60_exceptions.md R117, R118), the port requests (43_framer_engine.md R95, R96), the end of a transaction
(60_exceptions.md R122) with its counterpart at FRM.GO (42_framer_cmd.md R91), and the reset input (70_reset_and_hazards.md R137). -/

namespace Sys2Proof.Machine

/-- Strictly rising addresses, all above `from` where one is given. -/
def risingAbove (low : Nat) : Memory → Bool
  | [] => true
  | (a, _) :: m => decide (low ≤ a) && decide (a < Config.bufBytes) && risingAbove (a + 1) m

/-- The canonical form: addresses strictly rising and below 256. -/
def Memory.wf (m : Memory) : Bool := risingAbove 0 m

/-- The byte at `a` if it is written (20_memory.md R44). -/
def Memory.read : Memory → Byte → Option Byte
  | [], _ => none
  | (k, v) :: m, a => if k = a.toNat then some v else Memory.read m a

/-- The memory with byte `a` set to `v` and written (20_memory.md R45). -/
def Memory.write : Memory → Byte → Byte → Memory
  | [], a, v => [(a.toNat, v)]
  | (k, x) :: m, a, v =>
    if a.toNat < k then (a.toNat, v) :: (k, x) :: m
    else if a.toNat = k then (k, v) :: m
    else (k, x) :: Memory.write m a v

/-- The next draw, and the state that has taken it (20_memory.md R44; log 3). -/
def draw (s : State) : Byte × State :=
  (Config.freeByte s.draws, { s with draws := s.draws + 1 })

/-- `MemRead(a, 1)`: the byte if written, else a fresh draw (20_memory.md R44). -/
def memRead (a : Byte) (s : State) : Byte × State :=
  match Memory.read s.buf a with
  | some v => (v, s)
  | none => draw s

/-- `MemWrite(a, 1, v)` (20_memory.md R45). -/
def memWrite (a v : Byte) (s : State) : State :=
  { s with buf := Memory.write s.buf a v }

/-- `ack <- a ; rdata <- d` (30_encoding.md R72; log 4). -/
def respond (a : Ack) (d : Word) (s : State) : State :=
  { s with response := some { ack := a, rdata := d } }

/-- `raise Illegal()`: no state changes (60_exceptions.md R117). -/
def raiseIllegal (s : State) : State := respond .illegal 0 s

/-- `raise Busy()`: no state changes (60_exceptions.md R118). -/
def raiseBusy (s : State) : State := respond .busy 0 s

/-- The BUSY check, before the effect (60_exceptions.md R118, R124). -/
def unlessBusy (effect : State → State) (s : State) : State :=
  if s.busy then raiseBusy s else effect s

/-- Folds `len` bytes of `BUF` from `base` on, in increasing order and wrapping, into `c` (40_crc.md R83). -/
def foldRange (base : Byte) : Nat → Half → State → Half × State
  | 0, c, s => (c, s)
  | n + 1, c, s => foldRange (base + 1) n (fold c (memRead base s).1) (memRead base s).2

/-- `PortWrite(b)`: the port's answer and the state that has taken it, or nothing while the port has not answered
(43_framer_engine.md R95; 60_exceptions.md R133; log 2). -/
def portWrite (b : Byte) (s : State) : Option (WriteAnswer × State) :=
  match s.portWrites with
  | [] => none
  | a :: rest => some (a, { s with portWrites := rest, portLog := s.portLog ++ [.write b a] })

/-- `PortRead(t)`: likewise (43_framer_engine.md R96; log 2). -/
def portRead (t : Half) (s : State) : Option (ReadAnswer × State) :=
  match s.portReads with
  | [] => none
  | a :: rest => some (a, { s with portReads := rest, portLog := s.portLog ++ [.read t a] })

/-- `finish`: latches the outcome and ends the transaction; no other register is written (60_exceptions.md R122). -/
def finish (e : Ending) (s : State) : State :=
  { s with
    resKind := e.kind
    resCode := e.code s.excCode
    resLen := e.len
    xerr := e.err
    fsm := .idle }

/-- The start of a transaction: the outcome and the working registers are cleared and sending begins
(42_framer_cmd.md R91). -/
def startTransaction (s : State) : State :=
  { s with
    k := 0
    i := 0
    frCrc := Config.crcInit
    bad := false
    exc := false
    excCode := 0x00
    resKind := .none
    resCode := 0x0000
    resLen := 0
    xerr := 0x0000
    fsm := .sending }

/-- The reset input: every register at its reset value and every byte unwritten; the parameters and everything outside
the block stay as they are (70_reset_and_hazards.md R137, R138; log 12). -/
def resetBlock (s : State) : State :=
  { State.reset with
    params := s.params
    inputs := s.inputs
    portWrites := s.portWrites
    portReads := s.portReads
    portLog := s.portLog
    draws := s.draws }

/-- The byte an accepted `PortWrite` put on the line. -/
def PortEvent.accepted : PortEvent → Option Byte
  | .write b .ok => some b
  | .write _ (.xerr _) => none
  | .read _ _ => none

/-- The byte a `PortRead` took from the port. -/
def PortEvent.delivered : PortEvent → Option Byte
  | .read _ (.byte b) => some b
  | .read _ .noByte => none
  | .read _ (.xerr _) => none
  | .write _ _ => none

/-- The window of a `PortRead`. -/
def PortEvent.window : PortEvent → Option Half
  | .read t _ => some t
  | .write _ _ => none

/-- The bytes the port has accepted so far, in order (43_framer_engine.md R95). -/
def State.sent (s : State) : List Byte := s.portLog.filterMap PortEvent.accepted

/-- The bytes the port has delivered so far, in order (43_framer_engine.md R96). -/
def State.received (s : State) : List Byte := s.portLog.filterMap PortEvent.delivered

/-- The windows of the reads issued so far, in order (43_framer_engine.md R101). -/
def State.windows (s : State) : List Half := s.portLog.filterMap PortEvent.window

end Sys2Proof.Machine
end

