-- ==== Sys2Proof/Machine/Buffer.lean ====
section
/-! DEFINITION. The buffer RAM commands (41_buffer.md). -/

namespace Sys2Proof.Machine

/-- BUF.WR (41_buffer.md R85). -/
def execBufWr (addr data : Byte) (s : State) : Result :=
  .next (unlessBusy (fun s => respond .ok 0 (memWrite addr data s)) s)

/-- BUF.RD's effect: an unwritten byte reads as a fresh draw (41_buffer.md R86). -/
def bufRdEffect (addr : Byte) (s : State) : State :=
  let r := memRead addr s
  respond .ok (r.1.setWidth 32) r.2

/-- BUF.RD (41_buffer.md R86). -/
def execBufRd (addr : Byte) (s : State) : Result :=
  .next (unlessBusy (bufRdEffect addr) s)

end Sys2Proof.Machine
end

