-- ==== Sys2Proof/Machine/Crc.lean ====
section
/-! DEFINITION. The CRC incrementer's commands (40_crc.md section 2). -/

namespace Sys2Proof.Machine

/-- CRC.INIT: accepted in every `FSM` state (40_crc.md R81). -/
def execCrcInit (s : State) : Result :=
  .next (respond .ok 0 { s with crcAcc := Config.crcInit })

/-- CRC.FOLD: accepted in every `FSM` state (40_crc.md R82). -/
def execCrcFold (b : Byte) (s : State) : Result :=
  .next (respond .ok 0 { s with crcAcc := fold s.crcAcc b })

/-- CRC.FOLDR's effect: one atomic fold of the range (40_crc.md R83). -/
def foldrEffect (base : Byte) (len : Index) (s : State) : State :=
  let r := foldRange base len.toNat s.crcAcc s
  respond .ok 0 { r.2 with crcAcc := r.1 }

/-- CRC.FOLDR: BUSY during a transaction, because it reads `BUF` (40_crc.md R83). -/
def execCrcFoldr (base : Byte) (len : Index) (s : State) : Result :=
  .next (unlessBusy (foldrEffect base len) s)

/-- CRC.READ: accepted in every `FSM` state, writes no state (40_crc.md R84). -/
def execCrcRead (s : State) : Result :=
  .next (respond .ok (crcReadWord s.crcAcc) s)

end Sys2Proof.Machine
end

