-- ==== Sys2Proof/Machine/Framer.lean ====
section
/-! DEFINITION. The framer's commands (42_framer_cmd.md). -/

namespace Sys2Proof.Machine

/-- FRM.ADDR (42_framer_cmd.md R87): no value is checked. -/
def execFrmAddr (slave func : Byte) (s : State) : Result :=
  .next (unlessBusy (fun s => respond .ok 0 { s with slave := slave, func := func }) s)

/-- FRM.TMO (42_framer_cmd.md R88). -/
def execFrmTmo (tmo : Half) (s : State) : Result :=
  .next (unlessBusy (fun s => respond .ok 0 { s with timeout := tmo }) s)

/-- FRM.REQ (42_framer_cmd.md R89): no length is checked. -/
def execFrmReq (base len : Byte) (s : State) : Result :=
  .next (unlessBusy (fun s => respond .ok 0 { s with reqBase := base, reqLen := len }) s)

/-- FRM.RSP (42_framer_cmd.md R90). -/
def execFrmRsp (base len : Byte) (s : State) : Result :=
  .next (unlessBusy (fun s => respond .ok 0 { s with rspBase := base, rspLen := len }) s)

/-- FRM.GO: starts one transaction and sends no byte by itself (42_framer_cmd.md R91). -/
def execFrmGo (s : State) : Result :=
  .next (unlessBusy (fun s => respond .ok 0 (startTransaction s)) s)

/-- FRM.STAT: accepted in every `FSM` state, writes no state (42_framer_cmd.md R92). -/
def execFrmStat (s : State) : Result :=
  .next (respond .ok (statWord s) s)

/-- FRM.XERR: accepted in every `FSM` state, writes no state (42_framer_cmd.md R93). -/
def execFrmXerr (s : State) : Result :=
  .next (respond .ok (s.xerr.setWidth 32) s)

end Sys2Proof.Machine
end

