-- ==== Sys2Proof/Machine/Dispatch.lean ====
section
/-! DEFINITION. One arm per command (spec/opcode_table.json). -/

namespace Sys2Proof.Machine

def exec (i : Instr) (s : State) : Host.Outcome State Fault Refusal :=
  match i with
  | .crcInit => Sys2Proof.Machine.execCrcInit s
  | .crcFold b => Sys2Proof.Machine.execCrcFold b s
  | .crcFoldr base len => Sys2Proof.Machine.execCrcFoldr base len s
  | .crcRead => Sys2Proof.Machine.execCrcRead s
  | .bufWr addr data => Sys2Proof.Machine.execBufWr addr data s
  | .bufRd addr => Sys2Proof.Machine.execBufRd addr s
  | .frmAddr slave func => Sys2Proof.Machine.execFrmAddr slave func s
  | .frmTmo tmo => Sys2Proof.Machine.execFrmTmo tmo s
  | .frmReq base len => Sys2Proof.Machine.execFrmReq base len s
  | .frmRsp base len => Sys2Proof.Machine.execFrmRsp base len s
  | .frmGo => Sys2Proof.Machine.execFrmGo s
  | .frmStat => Sys2Proof.Machine.execFrmStat s
  | .frmXerr => Sys2Proof.Machine.execFrmXerr s

end Sys2Proof.Machine
end

