-- ==== Sys2Proof/Machine/Engine.lean ====
section
/-! DEFINITION. The ENGINE: send, idle detector, receive, classify (43_framer_engine.md). Where the port has not
answered, the step has not happened and nothing changes (60_exceptions.md R133; log 2). -/

namespace Sys2Proof.Machine

/-- Request-frame byte `K`, and the state after reading it (43_framer_engine.md R97; 30_encoding.md R62). -/
def txByte (s : State) : Byte × State :=
  if s.k.toNat = 0 then (s.slave, s)
  else if s.k.toNat = 1 then (s.func, s)
  else if s.k.toNat < s.reqLen.toNat + 2 then memRead (regionAddr s.reqBase (s.k.toNat - 2)) s
  else if s.k.toNat = s.reqLen.toNat + 2 then (crcLow s.frCrc, s)
  else (crcHigh s.frCrc, s)

/-- `tx_done()`: the broadcast shortcut, or the start of the receive phase (43_framer_engine.md R99, R100). -/
def txDone (s : State) : State :=
  if s.timeout = 0 then finish .timeout s
  else
    { s with
      frCrc := Config.crcInit
      i := 0
      bad := false
      exc := false
      excCode := 0x00
      fsm := .waitFirst }

/-- Byte `b` was accepted: it is folded unless it is a CRC byte, and `K` advances or sending ends
(43_framer_engine.md R97). -/
def txAccepted (b : Byte) (s : State) : State :=
  let s := if s.k.toNat < s.reqLen.toNat + 2 then { s with frCrc := fold s.frCrc b } else s
  if s.k.toNat < s.reqLen.toNat + 3 then { s with k := s.k + 1 } else txDone s

/-- One ENGINE step in SENDING (43_framer_engine.md R97, R98). -/
def txStep (s : State) : State :=
  match portWrite (txByte s).1 (txByte s).2 with
  | none => s
  | some (.ok, t) => txAccepted (txByte s).1 t
  | some (.xerr e, t) => finish (.transport e) t

/-- The read window: `TIMEOUT` for the first byte, `IDLE_MS` after (43_framer_engine.md R101). -/
def readWindow (s : State) : Half :=
  if s.fsm = .waitFirst then s.timeout else s.params.idleMs

/-- Where byte `b` of index `I` goes: to `EXC_CODE`, to the response region, or nowhere; `exc` is EXC after the byte
(43_framer_engine.md R106 to R109). -/
def storeByte (b : Byte) (exc : Bool) (s : State) : State :=
  if s.i.toNat < 2 then s
  else if exc then (if s.i.toNat = 2 then { s with excCode := b } else s)
  else if s.i.toNat < 2 + s.rspLen.toNat then memWrite (regionAddr s.rspBase (s.i.toNat - 2)) b s
  else s

/-- `on_byte(b)` (43_framer_engine.md R103 to R111): the 257th byte aborts; any other is folded, tested, stored and
counted. -/
def onByte (b : Byte) (s : State) : State :=
  if Config.maxFrame ≤ s.i.toNat then finish .badFrame s
  else
    { storeByte b (excAfter s b) s with
      frCrc := fold s.frCrc b
      exc := excAfter s b
      bad := badAfter s b
      i := s.i + 1
      fsm := .receiving }

/-- The outcome of a complete frame, `n = I`: the first test that holds (43_framer_engine.md R113). -/
def classification (s : State) : Ending :=
  if s.i.toNat = 0 then .timeout
  else if s.i.toNat < s.params.minFrame.toNat then .badFrame
  else if s.frCrc ≠ 0 then .badCrc
  else if s.exc then (if s.i.toNat = Config.excFrame then .exception else .invalidResponse)
  else if s.bad then .invalidResponse
  else .ok (s.i - 4)

/-- `classify()` (43_framer_engine.md R113). -/
def classify (s : State) : State := finish (classification s) s

/-- One ENGINE step in WAIT_FIRST or RECEIVING (43_framer_engine.md R103, R112). -/
def rxStep (s : State) : State :=
  match portRead (readWindow s) s with
  | none => s
  | some (.byte b, t) => onByte b t
  | some (.noByte, t) => classify t
  | some (.xerr e, t) => finish (.transport e) t

/-- An ENGINE step, enabled exactly when `FSM != IDLE` (43_framer_engine.md R94). -/
def engineStep (s : State) : State :=
  match s.fsm with
  | .idle => s
  | .sending => txStep s
  | .waitFirst => rxStep s
  | .receiving => rxStep s

end Sys2Proof.Machine
end

