-- ==== Sys2Proof/Machine/HostPort.lean ====
section
/-! DEFINITION. The host command port and the taking of turns (10_state.md R40; 60_exceptions.md R124; 00_scope.md R16). -/

namespace Sys2Proof.Machine

/-- A HOST step: the word is checked ILLEGAL first, then its command runs, which checks BUSY before its effect
(60_exceptions.md R124). -/
def hostStep (cmd : Word) (s : State) : Result :=
  match decode cmd with
  | .error _ => .next (raiseIllegal s)
  | .ok i => exec i s

/-- What the oldest pending input does, in the state that no longer has it (log 1). -/
def takeInput : Input → State → Result
  | .command cmd, s => hostStep cmd s
  | .engineTurn, s => .next (engineStep s)
  | .reset, s => .next (resetBlock s)

/-- The oldest pending input happens; where none is pending the ENGINE has the turn (log 1). -/
def takeTurn (s : State) : Result :=
  match s.inputs with
  | [] => .next (engineStep s)
  | x :: rest => takeInput x { s with inputs := rest }

/-- A table word presented as the host's next command, before everything else that is pending (logs 11, 13). -/
def presentWord (s : State) (nbits w : Nat) : State :=
  { s with inputs := .command (BitVec.ofNat 32 (w % 2 ^ nbits)) :: s.inputs }

end Sys2Proof.Machine
end

