-- ==== Sys2Proof/Machine/Step.lean ====
section
/-! DEFINITION. One step of the block: one HOST step, one ENGINE step or one reset, atomic (00_scope.md R16; 20_memory.md R51). -/

namespace Sys2Proof.Machine

def step (s : State) : Host.Outcome State Fault Refusal := takeTurn s

/-- The block fetches nothing (10_state.md R18): its next instruction is the word the host presents next (log 11). -/
def State.withFetchWord (s : State) (nbits w : Nat) : State := presentWord s nbits w

end Sys2Proof.Machine
end

