-- ==== Sys2Proof/Safety.lean ====
section
/-! DEFINITION. The terms claims are stated in: runs, the frames of the wire encoding (30_encoding.md section 1), the
outcome of a whole frame, and the invariant every step keeps. Nothing here is called by the machine. -/

namespace Sys2Proof.Safety

open Sys2Proof.Machine

/-- `n` steps in a row. -/
def stepN : Nat → State → Result
  | 0, s => .next s
  | n + 1, s =>
    match step s with
    | .next t => stepN n t
    | .fault f => .fault f
    | .refused r => .refused r

/-- The last `n` entries of a list, all of it where it is shorter. -/
def lastN {α : Type} (n : Nat) (xs : List α) : List α := xs.drop (xs.length - n)

/-! Wire frames -/

/-- A frame body with its CRC appended, low byte first (20_memory.md R47, 30_encoding.md R62). -/
def withCrc (body : List Byte) : List Byte := body ++ [crcLow (crc body), crcHigh (crc body)]

/-- The request frame: slave ID, function code, payload, CRC (30_encoding.md R62). -/
def requestFrame (slave func : Byte) (payload : List Byte) : List Byte :=
  withCrc (slave :: func :: payload)

/-- `payload` agrees with every written byte of the region at `base`; an unwritten byte may be sent as anything
(30_encoding.md R62, 20_memory.md R44). -/
def AgreesWithBuf (buf : Memory) (base : Byte) (payload : List Byte) : Prop :=
  ∀ (j : Nat) (v : Byte), j < payload.length → Memory.read buf (base + BitVec.ofNat 8 j) = some v →
    payload[j]? = some v

/-- Byte 1 of the frame is the exception marker (43_framer_engine.md R107). -/
def frameExc (func : Byte) (frame : List Byte) : Bool :=
  decide (frame[1]? = some (func ||| 0x80))

/-- The frame has a wrong slave ID, or a function code that is neither the expected one nor its marker, or is no
exception frame and is longer than the response buffer and the four other bytes (43_framer_engine.md R106, R107, R110). -/
def frameBad (slave func rspLen : Byte) (frame : List Byte) : Bool :=
  (decide (1 ≤ frame.length) && decide (frame[0]? ≠ some slave))
    || (decide (2 ≤ frame.length) && !frameExc func frame && decide (frame[1]? ≠ some func))
    || (!frameExc func frame && decide (rspLen.toNat + 4 < frame.length))

/-- The outcome of a whole frame of at most 256 bytes, by the tests of 43_framer_engine.md R113 in their order. -/
def frameEnding (minFrame : Nat) (slave func rspLen : Byte) (frame : List Byte) : Ending :=
  if frame.length = 0 then .timeout
  else if frame.length < minFrame then .badFrame
  else if crc frame ≠ 0 then .badCrc
  else if frameExc func frame then (if frame.length = 5 then .exception else .invalidResponse)
  else if frameBad slave func rspLen frame then .invalidResponse
  else .ok (BitVec.ofNat 9 (frame.length - 4))

/-! Reset -/

/-- Every register at the reset value of 10_state.md R19 to R37, and every byte unwritten (70_reset_and_hazards.md R137). -/
structure HasResetValues (s : State) : Prop where
  fsm : s.fsm = .idle
  slave : s.slave = 0x00
  func : s.func = 0x00
  timeout : s.timeout = 0x0000
  reqBase : s.reqBase = 0x00
  reqLen : s.reqLen = 0x00
  rspBase : s.rspBase = 0x00
  rspLen : s.rspLen = 0x00
  k : s.k = 0
  i : s.i = 0
  frCrc : s.frCrc = 0xFFFF
  bad : s.bad = false
  exc : s.exc = false
  excCode : s.excCode = 0x00
  resKind : s.resKind = .none
  resCode : s.resCode = 0x0000
  resLen : s.resLen = 0
  xerr : s.xerr = 0x0000
  crcAcc : s.crcAcc = 0xFFFF
  buf : ∀ a : Byte, Memory.read s.buf a = none

/-! Command rejections -/

/-- Every word of opcode `op` with a 1 in a bit of `mask` is answered ILLEGAL in every state and changes nothing. -/
def IllegalWithReservedBits (op : BitVec 4) (mask : Word) : Prop :=
  ∀ (cmd : Word) (s : State) (rest : List Input),
    cmd.extractLsb' 28 4 = op → cmd &&& mask ≠ 0 → s.inputs = .command cmd :: rest →
    step s = .next { s with inputs := rest, response := some { ack := .illegal, rdata := 0 } }

/-- The command is answered BUSY during a transaction and changes nothing. -/
def BusyInTransaction (i : Instr) : Prop :=
  ∀ s : State, s.fsm ≠ .idle →
    exec i s = .next { s with response := some { ack := .busy, rdata := 0 } }

/-- RESMASK of 30_encoding.md R70; every bit for an opcode that is reserved. -/
def resMask (op : Nat) : Word :=
  if op = 0x1 ∨ op = 0x4 ∨ op = 0xB ∨ op = 0xC ∨ op = 0xD then 0x0FFFFFFF
  else if op = 0x2 then 0x0FFFFF00
  else if op = 0x3 then 0x0E0000FF
  else if op = 0x5 ∨ op = 0x7 ∨ op = 0x8 ∨ op = 0x9 ∨ op = 0xA then 0x0FFF0000
  else if op = 0x6 then 0x0FFF00FF
  else 0xFFFFFFFF

/-- The commands refused during a transaction, as 60_exceptions.md R118 lists them. -/
def refusedInTransaction : Instr → Bool
  | .crcFoldr _ _ | .bufWr _ _ | .bufRd _ | .frmAddr _ _ | .frmTmo _ | .frmReq _ _ | .frmRsp _ _
  | .frmGo => true
  | .crcInit | .crcFold _ | .crcRead | .frmStat | .frmXerr => false

/-- `rdata` of an accepted command, by the table of 30_encoding.md R72; `MemRead` is 20_memory.md R44. -/
def okData (i : Instr) (s : State) : Word :=
  match i with
  | .crcRead => (if s.crcAcc = 0 then 0x00010000 else 0) ||| s.crcAcc.setWidth 32
  | .bufRd addr => (memRead addr s).1.setWidth 32
  | .frmStat => s.fsm.bits ++ s.resKind.bits ++ s.resLen ++ s.resCode
  | .frmXerr => s.xerr.setWidth 32
  | .crcInit | .crcFold _ | .crcFoldr _ _ | .bufWr _ _ | .frmAddr _ _ | .frmTmo _ | .frmReq _ _
  | .frmRsp _ _ | .frmGo => 0

/-! Unwritten bytes of a range -/

/-- How many of the first `j` bytes of the range at `base` are unwritten (20_memory.md R44). -/
def unwrittenBefore (buf : Memory) (base : Byte) (j : Nat) : Nat :=
  ((List.range j).filter fun m => (Memory.read buf (base + BitVec.ofNat 8 m)).isNone).length

/-- Byte `j` of a range read in order from its start, `draws` draws having been taken before: the byte if written, else
a draw of its own (20_memory.md R44). -/
def rangeByte (buf : Memory) (base : Byte) (draws : Nat) (j : Nat) : Byte :=
  (Memory.read buf (base + BitVec.ofNat 8 j)).getD
    (Config.freeByte (draws + unwrittenBefore buf base j))

/-! States an ENGINE step leads to -/

/-- `s` after the port has answered a read with `a`, in the window of 43_framer_engine.md R101. -/
def afterRead (s : State) (a : ReadAnswer) (rest : List ReadAnswer) : State :=
  { s with
    portReads := rest
    portLog := s.portLog ++
      [.read (if s.fsm = .waitFirst then s.timeout else s.params.idleMs) a] }

/-- `s` after the port has answered the write of `b` with `a`. -/
def afterWrite (s : State) (b : Byte) (a : WriteAnswer) (rest : List WriteAnswer) : State :=
  { s with portWrites := rest, portLog := s.portLog ++ [.write b a] }

/-- `s` with a transaction ended: the four result registers latched and `FSM` IDLE (60_exceptions.md R122). -/
def ended (s : State) (kind : ResKind) (code : Half) (len : Index) (err : Half) : State :=
  { s with resKind := kind, resCode := code, resLen := len, xerr := err, fsm := .idle }

/-- The rows of 43_framer_engine.md R114, with the events that take them; `stay` is a step in which the ENGINE made no
port request and no transaction started (a command, a turn without an answer), `reset` the reset input. -/
inductive FsmEdge (s t : State) : Prop where
  | stay : t.fsm = s.fsm → t.portLog = s.portLog → FsmEdge s t
  | reset : s.inputs.head? = some .reset → t.fsm = .idle → t.resKind = .none → FsmEdge s t
  | go : s.fsm = .idle → s.inputs.head? = some (.command 0xB0000000) → t.fsm = .sending → FsmEdge s t
  | sendMore : s.fsm = .sending → s.portWrites.head? = some .ok →
      s.k.toNat < s.reqLen.toNat + 3 → t.fsm = .sending → FsmEdge s t
  | broadcast : s.fsm = .sending → s.portWrites.head? = some .ok →
      s.k.toNat = s.reqLen.toNat + 3 → s.timeout = 0 → t.fsm = .idle → t.resKind = .timeout → FsmEdge s t
  | sent : s.fsm = .sending → s.portWrites.head? = some .ok →
      s.k.toNat = s.reqLen.toNat + 3 → s.timeout ≠ 0 → t.fsm = .waitFirst → FsmEdge s t
  | sendError (e : Half) : s.fsm = .sending → s.portWrites.head? = some (.xerr e) →
      t.fsm = .idle → t.resKind = .transport → t.xerr = e → FsmEdge s t
  | firstByte (b : Byte) : s.fsm = .waitFirst → s.portReads.head? = some (.byte b) →
      t.fsm = .receiving → FsmEdge s t
  | noAnswer : s.fsm = .waitFirst → s.portReads.head? = some .noByte →
      t.fsm = .idle → t.resKind = .timeout → FsmEdge s t
  | nextByte (b : Byte) : s.fsm = .receiving → s.portReads.head? = some (.byte b) →
      s.i.toNat ≤ 255 → t.fsm = .receiving → FsmEdge s t
  | tooLong (b : Byte) : s.fsm = .receiving → s.portReads.head? = some (.byte b) →
      s.i.toNat = 256 → t.fsm = .idle → t.resKind = .badFrame → FsmEdge s t
  | frameEnd : s.fsm = .receiving → s.portReads.head? = some .noByte →
      t.fsm = .idle → t.resKind ≠ .none → FsmEdge s t
  | readError (e : Half) : s.fsm = .waitFirst ∨ s.fsm = .receiving →
      s.portReads.head? = some (.xerr e) →
      t.fsm = .idle → t.resKind = .transport → t.xerr = e → FsmEdge s t

/-! The invariant -/

/-- What SENDING has done so far, `sent` being the bytes accepted in this transaction: they are the first `K` bytes of
the request frame, and `FR_CRC` is the CRC of those that precede the CRC (10_state.md R27, R29; 43_framer_engine.md R97). -/
structure SendProgress (s : State) (sent : List Byte) : Prop where
  count : sent.length = s.k.toNat
  bound : s.k.toNat ≤ s.reqLen.toNat + 3
  crcSoFar : s.frCrc = crc (sent.take (s.reqLen.toNat + 2))
  isPrefix : ∃ payload : List Byte, payload.length = s.reqLen.toNat ∧
    AgreesWithBuf s.buf s.reqBase payload ∧
    sent = (requestFrame s.slave s.func payload).take s.k.toNat

/-- What reception has done so far, `frame` being the bytes received in this frame (10_state.md R28 to R32;
43_framer_engine.md R105 to R111). -/
structure ReceiveProgress (s : State) (frame : List Byte) : Prop where
  count : frame.length = s.i.toNat
  bound : s.i.toNat ≤ 256
  crcSoFar : s.frCrc = crc frame
  excFlag : s.exc = frameExc s.func frame
  badFlag : s.bad = frameBad s.slave s.func s.rspLen frame
  code : s.excCode = if frameExc s.func frame then frame.getD 2 0 else 0
  stored : frameExc s.func frame = false → ∀ (j : Nat) (v : Byte), j < s.rspLen.toNat →
    frame[j + 2]? = some v → Memory.read s.buf (s.rspBase + BitVec.ofNat 8 j) = some v

/-- The result registers agree with each other (10_state.md R33 to R36). -/
structure ResultsAgree (s : State) : Prop where
  lenOfOk : s.resKind = .ok → s.resLen.toNat ≤ 252
  lenElse : s.resKind ≠ .ok → s.resLen = 0
  errElse : s.resKind ≠ .transport → s.xerr = 0
  code : s.resCode =
    match s.resKind with
    | .none | .ok => 0x0000
    | .exception => s.excCode.setWidth 16
    | .timeout => 0x0100
    | .badFrame => 0x0301
    | .badCrc => 0x0302
    | .invalidResponse => 0x0303
    | .transport => 0x0400

/-- The invariant of the block. -/
structure Inv (s : State) : Prop where
  bufCanonical : s.buf.wf = true
  results : ResultsAgree s
  noOutcomeYet : s.fsm ≠ .idle → s.resKind = .none
  sending : s.fsm = .sending → SendProgress s (lastN s.k.toNat s.sent)
  waiting : s.fsm = .waitFirst → s.i = 0
  receivingSome : s.fsm = .receiving → s.i ≠ 0
  reception : s.fsm = .waitFirst ∨ s.fsm = .receiving →
    s.timeout ≠ 0 ∧ ReceiveProgress s (lastN s.i.toNat s.received)

end Sys2Proof.Safety
end

