-- ==== Sys2Proof/Certificates/Slice0/Obligations.lean ====
section
/-! DEFINITION. The statements about the block, for the provers. Each docstring names the rule it formalises. Where a
statement is about `engineStep`, `EngineTurnRunsEngineStep` says which steps of the machine run it. -/

open Sys2Proof Sys2Proof.Machine Sys2Proof.Safety

/-! ## CRC incrementer -/

/-- CRC.INIT (R81): in every state `CRC_ACC` becomes 0xFFFF and nothing else but the answer changes; ZERO of a CRC.READ
is then 0. -/
def Obligations.CrcInitSetsAccumulator : Prop :=
  encode .crcInit = 0x10000000 ∧
  IllegalWithReservedBits 0x1 0x0FFFFFFF ∧
  ∀ s : State, exec .crcInit s =
    .next { s with crcAcc := 0xFFFF, response := some { ack := .ok, rdata := 0 } } ∧
    (crcReadWord 0xFFFF).getLsbD 16 = false

/-- CRC.FOLD (R82): in every state `CRC_ACC` becomes `fold(CRC_ACC, b)` and nothing else but the answer changes. -/
def Obligations.CrcFoldFoldsOneByte : Prop :=
  (∀ b : Byte, encode (.crcFold b) = 0x20000000 ||| b.setWidth 32) ∧
  IllegalWithReservedBits 0x2 0x0FFFFF00 ∧
  (∀ (b : Byte) (s : State), exec (.crcFold b) s =
    .next { s with
      crcAcc := (s.crcAcc >>> 8) ^^^ T ((s.crcAcc &&& 0xFF).setWidth 8 ^^^ b)
      response := some { ack := .ok, rdata := 0 } }) ∧
  fold 0x0000 0x00 = 0x0000 ∧ fold 0xFFFF 0xFF = 0x00FF ∧ fold 0xFFFF 0x11 = 0x4C7F

/-- CRC.FOLDR (R83): while IDLE, the `len` bytes from `base` on, modulo 256, are folded in increasing order in one step,
each unwritten byte being a draw of its own; otherwise BUSY; `len` 257 to 511 and reserved bits are ILLEGAL. How draws are
numbered is the model's own (log 3). -/
def Obligations.CrcFoldrFoldsRange : Prop :=
  (∀ (base : Byte) (len : Index), encode (.crcFoldr base len) =
    0x30000000 ||| (len.setWidth 32 <<< 16) ||| (base.setWidth 32 <<< 8)) ∧
  IllegalWithReservedBits 0x3 0x0E0000FF ∧
  (∀ (cmd : Word) (s : State) (rest : List Input), cmd.extractLsb' 28 4 = 0x3#4 →
    256 < (cmd.extractLsb' 16 9).toNat → s.inputs = .command cmd :: rest →
    step s = .next { s with inputs := rest, response := some { ack := .illegal, rdata := 0 } }) ∧
  (∀ (base : Byte) (len : Index), BusyInTransaction (.crcFoldr base len)) ∧
  ∀ (base : Byte) (len : Index) (s : State), len.toNat ≤ 256 → s.fsm = .idle →
    exec (.crcFoldr base len) s =
      .next { s with
        crcAcc := ((List.range len.toNat).map (rangeByte s.buf base s.draws)).foldl fold s.crcAcc
        draws := s.draws + unwrittenBefore s.buf base len.toNat
        response := some { ack := .ok, rdata := 0 } }

/-- CRC.READ (R84): in every state `rdata[15:0] = CRC_ACC` and `rdata[16]` says whether it is 0; no state is written. -/
def Obligations.CrcReadReturnsAccumulatorAndZero : Prop :=
  encode .crcRead = 0x40000000 ∧
  IllegalWithReservedBits 0x4 0x0FFFFFFF ∧
  ∀ s : State, exec .crcRead s =
    .next { s with
      response := some {
        ack := .ok, rdata := (if s.crcAcc = 0 then 0x00010000 else 0) ||| s.crcAcc.setWidth 32 } }

/-- The construction of the table (R75) gives every entry of the listing. -/
def Obligations.TableIsTheReflectedConstruction : Prop :=
  ∀ x : Byte, T x = shiftRounds 8 (x.setWidth 16)

/-- The CRC of a sequence (R77) starts at 0xFFFF and folds one byte at a time by the recurrence of R76. -/
def Obligations.CrcIsTheByteRecurrence : Prop :=
  crc [] = 0xFFFF ∧
  (∀ (bytes : List Byte) (b : Byte), crc (bytes ++ [b]) = fold (crc bytes) b) ∧
  (∀ (c : Half) (b : Byte), fold c b = (c >>> 8) ^^^ T ((c &&& 0xFF).setWidth 8 ^^^ b))

/-- The residue property (R78): a sequence with its own CRC appended, low byte first, has CRC 0. -/
def Obligations.CrcOfSequenceWithItsCrcIsZero : Prop :=
  ∀ bytes : List Byte,
    crc (bytes ++ [(crc bytes).extractLsb' 0 8, (crc bytes).extractLsb' 8 8]) = 0

/-- The table form equals the bit-serial form (R79), for every accumulator and byte. -/
def Obligations.FoldEqualsBitSerialForm : Prop :=
  ∀ (c : Half) (b : Byte), fold c b = foldBits c b

/-- The check value (R80): the CRC of the ASCII string 123456789. -/
def Obligations.CrcCheckValue : Prop :=
  crc [0x31, 0x32, 0x33, 0x34, 0x35, 0x36, 0x37, 0x38, 0x39] = 0x4B37

/-! ## Buffer RAM -/

/-- BUF.WR (R85): while IDLE the byte at `addr` becomes `data`, every other byte reads as before, and nothing else but
the answer changes; otherwise BUSY. -/
def Obligations.BufWrWritesOneByte : Prop :=
  (∀ addr data : Byte, encode (.bufWr addr data) =
    0x50000000 ||| (addr.setWidth 32 <<< 8) ||| data.setWidth 32) ∧
  IllegalWithReservedBits 0x5 0x0FFF0000 ∧
  (∀ addr data : Byte, BusyInTransaction (.bufWr addr data)) ∧
  ∀ (addr data : Byte) (s : State), s.fsm = .idle →
    ∃ m : Memory,
      exec (.bufWr addr data) s =
        .next { s with buf := m, response := some { ack := .ok, rdata := 0 } } ∧
      Memory.read m addr = some data ∧
      ∀ a : Byte, a ≠ addr → Memory.read m a = Memory.read s.buf a

/-- BUF.RD (R86): while IDLE a written byte is returned zero-extended and nothing else changes; an unwritten byte is a
fresh draw; otherwise BUSY. The draw counter is the model's own (log 3). -/
def Obligations.BufRdReadsOneByte : Prop :=
  (∀ addr : Byte, encode (.bufRd addr) = 0x60000000 ||| (addr.setWidth 32 <<< 8)) ∧
  IllegalWithReservedBits 0x6 0x0FFF00FF ∧
  (∀ addr : Byte, BusyInTransaction (.bufRd addr)) ∧
  (∀ (addr v : Byte) (s : State), s.fsm = .idle → Memory.read s.buf addr = some v →
    exec (.bufRd addr) s =
      .next { s with response := some { ack := .ok, rdata := v.setWidth 32 } }) ∧
  ∀ (addr : Byte) (s : State), s.fsm = .idle → Memory.read s.buf addr = none →
    exec (.bufRd addr) s =
      .next { s with
        draws := s.draws + 1
        response := some { ack := .ok, rdata := (Config.freeByte s.draws).setWidth 32 } }

/-- `MemRead` (R44): a written byte is returned and nothing changes; an unwritten byte is the next draw, and a second read of
it is the draw after that; after reset every byte is unwritten. The draw counter is the model's own (log 3). -/
def Obligations.UnwrittenByteIsDrawnAfresh : Prop :=
  (∀ (a v : Byte) (s : State), Memory.read s.buf a = some v → memRead a s = (v, s)) ∧
  (∀ (a : Byte) (s : State), Memory.read s.buf a = none →
    memRead a s = (Config.freeByte s.draws, { s with draws := s.draws + 1 }) ∧
    (memRead a (memRead a s).2).1 = Config.freeByte (s.draws + 1)) ∧
  ∀ (a : Byte) (s : State), Memory.read (resetBlock s).buf a = none

/-- `MemWrite` (R45): the byte is written and reads as the value given, every other byte as before, and only `BUF`
changes. -/
def Obligations.MemWriteWritesExactlyOneByte : Prop :=
  ∀ (a v : Byte) (s : State),
    memRead a (memWrite a v s) = (v, memWrite a v s) ∧
    (∀ a' : Byte, a' ≠ a → Memory.read (memWrite a v s).buf a' = Memory.read s.buf a') ∧
    memWrite a v s = { s with buf := (memWrite a v s).buf }

/-- Region addresses (R46): byte `j` of a region is at its base plus `j`, modulo 256, and no region of at most 255 bytes
overlaps itself. -/
def Obligations.RegionWrapsAndNeverOverlapsItself : Prop :=
  (∀ (base : Byte) (j : Nat), (regionAddr base j).toNat = (base.toNat + j) % 256) ∧
  ∀ (base : Byte) (j j' : Nat), j < 255 → j' < 255 → regionAddr base j = regionAddr base j' → j = j'

/-! ## Framer commands -/

/-- FRM.ADDR (R87): while IDLE both registers take the operands, every value being accepted, and nothing else but the
answer changes; otherwise BUSY. For a function code with bit 7 set the exception marker is the code itself. -/
def Obligations.FrmAddrSetsSlaveAndFunction : Prop :=
  (∀ slave func : Byte, encode (.frmAddr slave func) =
    0x70000000 ||| (slave.setWidth 32 <<< 8) ||| func.setWidth 32) ∧
  IllegalWithReservedBits 0x7 0x0FFF0000 ∧
  (∀ slave func : Byte, BusyInTransaction (.frmAddr slave func)) ∧
  ∀ (slave func : Byte) (s : State), s.fsm = .idle → exec (.frmAddr slave func) s =
    .next { s with slave := slave, func := func, response := some { ack := .ok, rdata := 0 } } ∧
    (func.getLsbD 7 = true → func ||| 0x80 = func)

/-- FRM.TMO (R88): while IDLE `TIMEOUT` takes the operand and nothing else but the answer changes; otherwise BUSY. -/
def Obligations.FrmTmoSetsTimeout : Prop :=
  (∀ tmo : Half, encode (.frmTmo tmo) = 0x80000000 ||| tmo.setWidth 32) ∧
  IllegalWithReservedBits 0x8 0x0FFF0000 ∧
  (∀ tmo : Half, BusyInTransaction (.frmTmo tmo)) ∧
  ∀ (tmo : Half) (s : State), s.fsm = .idle → exec (.frmTmo tmo) s =
    .next { s with timeout := tmo, response := some { ack := .ok, rdata := 0 } }

/-- FRM.REQ (R89): while IDLE `REQ_BASE` and `REQ_LEN` take the operands, no length being refused, and nothing else but the
answer changes; otherwise BUSY. -/
def Obligations.FrmReqSetsRequestRegion : Prop :=
  (∀ base len : Byte, encode (.frmReq base len) =
    0x90000000 ||| (base.setWidth 32 <<< 8) ||| len.setWidth 32) ∧
  IllegalWithReservedBits 0x9 0x0FFF0000 ∧
  (∀ base len : Byte, BusyInTransaction (.frmReq base len)) ∧
  ∀ (base len : Byte) (s : State), s.fsm = .idle → exec (.frmReq base len) s =
    .next { s with reqBase := base, reqLen := len, response := some { ack := .ok, rdata := 0 } }

/-- FRM.RSP (R90): while IDLE `RSP_BASE` and `RSP_LEN` take the operands, no length being refused, and nothing else but the
answer changes; otherwise BUSY. -/
def Obligations.FrmRspSetsResponseRegion : Prop :=
  (∀ base len : Byte, encode (.frmRsp base len) =
    0xA0000000 ||| (base.setWidth 32 <<< 8) ||| len.setWidth 32) ∧
  IllegalWithReservedBits 0xA 0x0FFF0000 ∧
  (∀ base len : Byte, BusyInTransaction (.frmRsp base len)) ∧
  ∀ (base len : Byte) (s : State), s.fsm = .idle → exec (.frmRsp base len) s =
    .next { s with rspBase := base, rspLen := len, response := some { ack := .ok, rdata := 0 } }

/-- FRM.GO (R91): while IDLE the working and result registers are cleared, `FSM` becomes SENDING, no byte is sent and the
configuration is kept; otherwise BUSY. -/
def Obligations.FrmGoStartsTransaction : Prop :=
  encode .frmGo = 0xB0000000 ∧
  IllegalWithReservedBits 0xB 0x0FFFFFFF ∧
  BusyInTransaction .frmGo ∧
  ∀ s : State, s.fsm = .idle → exec .frmGo s =
    .next { s with
      k := 0, i := 0, frCrc := 0xFFFF, bad := false, exc := false, excCode := 0x00
      resKind := .none, resCode := 0x0000, resLen := 0, xerr := 0x0000
      fsm := .sending
      response := some { ack := .ok, rdata := 0 } }

/-- FRM.STAT (R92): in every state `rdata` is `FSM`, `RES_KIND`, `RES_LEN`, `RES_CODE` from the top and no state is
written; while a transaction runs only the `FSM` field is nonzero, and every outcome has its own word (both in states
that satisfy the invariant). -/
def Obligations.FrmStatReturnsStateAndOutcome : Prop :=
  encode .frmStat = 0xC0000000 ∧
  IllegalWithReservedBits 0xC 0x0FFFFFFF ∧
  (∀ s : State, ∃ d : Word,
    exec .frmStat s = .next { s with response := some { ack := .ok, rdata := d } } ∧
    d.extractLsb' 29 3 = s.fsm.bits ∧ d.extractLsb' 25 4 = s.resKind.bits ∧
    d.extractLsb' 16 9 = s.resLen ∧ d.extractLsb' 0 16 = s.resCode ∧
    (Inv s → s.fsm ≠ .idle → d = s.fsm.bits.setWidth 32 <<< 29) ∧
    (Inv s → s.fsm = .idle →
      (s.resKind = .none → d = 0) ∧
      (s.resKind = .ok → d = 0x02000000 ||| (s.resLen.setWidth 32 <<< 16)) ∧
      (s.resKind = .exception → d = 0x04000000 ||| s.excCode.setWidth 32) ∧
      (s.resKind = .timeout → d = 0x06000100) ∧
      (s.resKind = .badFrame → d = 0x08000301) ∧
      (s.resKind = .badCrc → d = 0x0A000302) ∧
      (s.resKind = .invalidResponse → d = 0x0C000303) ∧
      (s.resKind = .transport → d = 0x0E000400))) ∧
  Fsm.idle.bits = 0 ∧ Fsm.sending.bits = 1 ∧ Fsm.waitFirst.bits = 2 ∧ Fsm.receiving.bits = 3

/-- FRM.XERR (R93): in every state `rdata` is `XERR` zero-extended and no state is written; it is 0 unless the last
outcome is TRANSPORT (in states that satisfy the invariant). -/
def Obligations.FrmXerrReturnsTransportError : Prop :=
  encode .frmXerr = 0xD0000000 ∧
  IllegalWithReservedBits 0xD 0x0FFFFFFF ∧
  (∀ s : State, exec .frmXerr s =
    .next { s with response := some { ack := .ok, rdata := s.xerr.setWidth 32 } }) ∧
  ∀ s : State, Inv s → s.resKind ≠ .transport → exec .frmXerr s =
    .next { s with response := some { ack := .ok, rdata := 0 } }

/-! ## Words and their checks -/

/-- One word of each opcode, written out from the formats of R68, decodes to its command. -/
def Obligations.SpecWordsDecode : Prop :=
  decode 0x10000000 = .ok .crcInit ∧
  decode 0x2000001A = .ok (.crcFold 0x1A) ∧
  decode 0x30FF1000 = .ok (.crcFoldr 0x10 255) ∧
  decode 0x3100FF00 = .ok (.crcFoldr 0xFF 256) ∧
  decode 0x40000000 = .ok .crcRead ∧
  decode 0x5000206B = .ok (.bufWr 0x20 0x6B) ∧
  decode 0x60004000 = .ok (.bufRd 0x40) ∧
  decode 0x70001103 = .ok (.frmAddr 0x11 0x03) ∧
  decode 0x800003E8 = .ok (.frmTmo 1000) ∧
  decode 0x9000FCFD = .ok (.frmReq 0xFC 0xFD) ∧
  decode 0xA0004003 = .ok (.frmRsp 0x40 3) ∧
  decode 0xB0000000 = .ok .frmGo ∧
  decode 0xC0000000 = .ok .frmStat ∧
  decode 0xD0000000 = .ok .frmXerr

/-- Decoding the encoding of any well-formed instruction gives it back, with every operand (R67, R68). -/
def Obligations.DecodeOfEncodeIsIdentity : Prop :=
  ∀ i : Instr, i.wf = true → decode (encode i) = .ok i

/-- Each command has one word: what decodes is well-formed and encodes to the word it came from (R67, R70). -/
def Obligations.EncodeOfDecodeIsIdentity : Prop :=
  ∀ (cmd : Word) (i : Instr), decode cmd = .ok i → i.wf = true ∧ encode i = cmd

/-- Which words are ILLEGAL (R70, R71): exactly those of the reserved opcodes, those with a reserved bit set, and
CRC.FOLDR words with `len` above 256; among them the all-zero word. -/
def Obligations.ReservedWordsAreExactlyIllegal : Prop :=
  (∀ cmd : Word, (∃ e, decode cmd = .error e) ↔
    ((cmd.extractLsb' 28 4).toNat = 0x0 ∨ (cmd.extractLsb' 28 4).toNat = 0xE ∨
      (cmd.extractLsb' 28 4).toNat = 0xF ∨
      cmd &&& resMask (cmd.extractLsb' 28 4).toNat ≠ 0 ∨
      ((cmd.extractLsb' 28 4).toNat = 0x3 ∧ 256 < (cmd.extractLsb' 16 9).toNat))) ∧
  ∃ e, decode 0 = .error e

/-- The assembler (R73): each mnemonic with operands in range gives the word of its row; an operand out of range is
refused, never truncated. -/
def Obligations.AssemblerWordsOrRefusal : Prop :=
  (∀ b : Nat, (assemble "CRC.FOLD" [b]).map encode =
    if b < 256 then some (0x20000000 ||| BitVec.ofNat 32 b) else none) ∧
  (∀ base len : Nat, (assemble "CRC.FOLDR" [base, len]).map encode =
    if base < 256 ∧ len ≤ 256 then
      some (0x30000000 ||| (BitVec.ofNat 32 len <<< 16) ||| (BitVec.ofNat 32 base <<< 8))
    else none) ∧
  (∀ addr : Nat, (assemble "BUF.RD" [addr]).map encode =
    if addr < 256 then some (0x60000000 ||| (BitVec.ofNat 32 addr <<< 8)) else none) ∧
  (∀ tmo : Nat, (assemble "FRM.TMO" [tmo]).map encode =
    if tmo < 65536 then some (0x80000000 ||| BitVec.ofNat 32 tmo) else none) ∧
  (∀ (row : String × Word), row ∈ [("BUF.WR", 0x50000000), ("FRM.ADDR", 0x70000000),
      ("FRM.REQ", 0x90000000), ("FRM.RSP", 0xA0000000)] →
    ∀ hi lo : Nat, (assemble row.1 [hi, lo]).map encode =
      if hi < 256 ∧ lo < 256 then
        some (row.2 ||| (BitVec.ofNat 32 hi <<< 8) ||| BitVec.ofNat 32 lo)
      else none) ∧
  (∀ (row : String × Word), row ∈ [("CRC.INIT", 0x10000000), ("CRC.READ", 0x40000000),
      ("FRM.GO", 0xB0000000), ("FRM.STAT", 0xC0000000), ("FRM.XERR", 0xD0000000)] →
    (assemble row.1 []).map encode = some row.2)

/-- The pseudo-instructions (R74) expand to their sequences of plain commands; BUF.FILL writes byte `j` at
`(addr + j) mod 256`. -/
def Obligations.PseudoInstructionsExpand : Prop :=
  (∀ (slave func : Byte) (tmo : Half) (rqb rql rsb rsl : Byte),
    (Pseudo.frmSetup slave func tmo rqb rql rsb rsl).expand =
      [.frmAddr slave func, .frmTmo tmo, .frmReq rqb rql, .frmRsp rsb rsl] ∧
    (Pseudo.frmXact slave func tmo rqb rql rsb rsl).expand =
      (Pseudo.frmSetup slave func tmo rqb rql rsb rsl).expand ++ [.frmGo]) ∧
  (∀ (base : Byte) (len : Index),
    (Pseudo.crcOver base len).expand = [.crcInit, .crcFoldr base len, .crcRead]) ∧
  ∀ (addr : Byte) (bytes : List Byte) (j : Nat),
    (Pseudo.bufFill addr bytes).expand[j]? =
      bytes[j]?.map fun b => Instr.bufWr (addr + BitVec.ofNat 8 j) b

/-- A step runs the decoded instruction: where the host's next word decodes to `i`, the step is `exec i` in the state
without that word. -/
def Obligations.StepRunsTheDecodedCommand : Prop :=
  ∀ (s : State) (cmd : Word) (rest : List Input) (i : Instr),
    s.inputs = .command cmd :: rest → decode cmd = .ok i →
    step s = exec i { s with inputs := rest }

/-- The order of the checks (R124, R117): ILLEGAL in every state first, changing nothing; then BUSY for the commands R118
lists; then the effect, answered OK with the `rdata` of R72's table. `ack` is 0b00 for OK, 0b01 for ILLEGAL, 0b10 for BUSY,
and never 0b11 (R72). -/
def Obligations.ChecksRunInOrder : Prop :=
  (∀ (s : State) (cmd : Word) (rest : List Input), s.inputs = .command cmd :: rest →
    ((∃ e, decode cmd = .error e) →
      step s = .next { s with inputs := rest, response := some { ack := .illegal, rdata := 0 } }) ∧
    (∀ i, decode cmd = .ok i → refusedInTransaction i = true → s.fsm ≠ .idle →
      step s = .next { s with inputs := rest, response := some { ack := .busy, rdata := 0 } }) ∧
    (∀ i, decode cmd = .ok i → refusedInTransaction i = false ∨ s.fsm = .idle →
      ∃ t, step s = .next t ∧ t.response = some { ack := .ok, rdata := okData i s })) ∧
  Ack.ok.bits = 0b00 ∧ Ack.illegal.bits = 0b01 ∧ Ack.busy.bits = 0b10 ∧
  ∀ a : Ack, a.bits ≠ 0b11

/-- The commands refused while `FSM != IDLE` (R118), and those accepted in every state. -/
def Obligations.BusyRefusesExactlyTheListedCommands : Prop :=
  ∀ i : Instr,
    (refusedInTransaction i = true → BusyInTransaction i) ∧
    (refusedInTransaction i = false → ∀ s : State,
      ∃ t d, exec i s = .next t ∧ t.response = some { ack := .ok, rdata := d })

/-! ## Turns, reset -/

/-- Which steps run the ENGINE (the model's scheduling, log 1): an ENGINE turn, and a step with nothing pending. -/
def Obligations.EngineTurnRunsEngineStep : Prop :=
  (∀ s : State, s.inputs = [] → step s = .next (engineStep s)) ∧
  ∀ (s : State) (rest : List Input), s.inputs = .engineTurn :: rest →
    step s = .next (engineStep { s with inputs := rest })

/-- No step stops the machine. -/
def Obligations.StepAlwaysAnswersANextState : Prop :=
  ∀ s : State, ∃ t : State, step s = .next t

/-- Reset (R42, R137): the state after reset, and the state the reset input leads to from whatever state, have every
register at its reset value and every byte unwritten; FRM.STAT then returns 0; the port's channels are not touched (R138). -/
def Obligations.ResetInputResetsEveryRegister : Prop :=
  HasResetValues State.reset ∧
  ∀ (s : State) (rest : List Input), s.inputs = .reset :: rest →
    ∃ t : State, step s = .next t ∧ HasResetValues t ∧
      exec .frmStat t = .next { t with response := some { ack := .ok, rdata := 0 } } ∧
      t.portWrites = s.portWrites ∧ t.portReads = s.portReads ∧ t.portLog = s.portLog

/-! ## ENGINE -/

/-- When an ENGINE step is enabled (R94), and the `busy` output (R43): in IDLE nothing happens; elsewhere a step with an
answer makes exactly one port request, a write in SENDING and a read otherwise; without an answer nothing happens (R133). -/
def Obligations.EngineMakesOnePortRequestPerStep : Prop :=
  ∀ s : State,
    (s.busy = true ↔ s.fsm ≠ .idle) ∧
    (s.fsm = .idle → engineStep s = s) ∧
    (s.fsm = .sending → s.portWrites = [] → engineStep s = s) ∧
    (s.fsm = .waitFirst ∨ s.fsm = .receiving → s.portReads = [] → engineStep s = s) ∧
    (∀ a rest, s.fsm = .sending → s.portWrites = a :: rest →
      (engineStep s).portWrites = rest ∧ (engineStep s).portReads = s.portReads ∧
      ∃ b, (engineStep s).portLog = s.portLog ++ [.write b a]) ∧
    (∀ a rest, s.fsm = .waitFirst ∨ s.fsm = .receiving → s.portReads = a :: rest →
      (engineStep s).portReads = rest ∧ (engineStep s).portWrites = s.portWrites ∧
      ∃ w, (engineStep s).portLog = s.portLog ++ [.read w a])

/-- The send step (R97) while `K` is at most `REQ_LEN + 2`, the write being accepted: byte `K` of the frame goes to the
port, the bytes before the CRC are folded, `K` advances, and nothing else changes. An unwritten byte is a draw, numbered by
the model's own counter (log 3). -/
def Obligations.SendStepSendsByteK : Prop :=
  ∀ (s : State) (rest : List WriteAnswer), s.fsm = .sending → s.portWrites = .ok :: rest →
    (s.k = 0 → engineStep s =
      { afterWrite s s.slave .ok rest with k := 1, frCrc := fold s.frCrc s.slave }) ∧
    (s.k = 1 → engineStep s =
      { afterWrite s s.func .ok rest with k := 2, frCrc := fold s.frCrc s.func }) ∧
    (∀ j v, s.k.toNat = j + 2 → j < s.reqLen.toNat →
      Memory.read s.buf (s.reqBase + BitVec.ofNat 8 j) = some v → engineStep s =
      { afterWrite s v .ok rest with k := s.k + 1, frCrc := fold s.frCrc v }) ∧
    (∀ j, s.k.toNat = j + 2 → j < s.reqLen.toNat →
      Memory.read s.buf (s.reqBase + BitVec.ofNat 8 j) = none → engineStep s =
      { afterWrite s (Config.freeByte s.draws) .ok rest with
        k := s.k + 1, frCrc := fold s.frCrc (Config.freeByte s.draws), draws := s.draws + 1 }) ∧
    (s.k.toNat = s.reqLen.toNat + 2 → engineStep s =
      { afterWrite s (s.frCrc.extractLsb' 0 8) .ok rest with k := s.k + 1 })

/-- A write error (R98, R121) at any byte of the request frame (R97): byte `K` was handed to the port, the transaction ends at
once with TRANSPORT and the port's value, no read is attempted, and `K`, `FR_CRC` and the buffer RAM are left as they are.
An unwritten byte is a draw, numbered by the model's own counter (log 3). -/
def Obligations.WriteErrorEndsTransaction : Prop :=
  ∀ (s : State) (e : Half) (rest : List WriteAnswer),
    s.fsm = .sending → s.portWrites = .xerr e :: rest →
    (s.k = 0 → engineStep s =
      ended (afterWrite s s.slave (.xerr e) rest) .transport 0x0400 0 e) ∧
    (s.k = 1 → engineStep s =
      ended (afterWrite s s.func (.xerr e) rest) .transport 0x0400 0 e) ∧
    (∀ j v, s.k.toNat = j + 2 → j < s.reqLen.toNat →
      Memory.read s.buf (s.reqBase + BitVec.ofNat 8 j) = some v → engineStep s =
      ended (afterWrite s v (.xerr e) rest) .transport 0x0400 0 e) ∧
    (∀ j, s.k.toNat = j + 2 → j < s.reqLen.toNat →
      Memory.read s.buf (s.reqBase + BitVec.ofNat 8 j) = none → engineStep s =
      { ended (afterWrite s (Config.freeByte s.draws) (.xerr e) rest) .transport 0x0400 0 e with
        draws := s.draws + 1 }) ∧
    (s.k.toNat = s.reqLen.toNat + 2 → engineStep s =
      ended (afterWrite s (s.frCrc.extractLsb' 0 8) (.xerr e) rest) .transport 0x0400 0 e) ∧
    (s.reqLen.toNat + 3 ≤ s.k.toNat → engineStep s =
      ended (afterWrite s (s.frCrc.extractLsb' 8 8) (.xerr e) rest) .transport 0x0400 0 e)

/-- The broadcast shortcut (R99): after byte `L + 3`, with `TIMEOUT == 0`, the transaction ends with TIMEOUT and no read is
issued, whatever `SLAVE` is; with another `TIMEOUT` the block waits for a reply, whatever `SLAVE` is. -/
def Obligations.ZeroTimeoutEndsAfterSending : Prop :=
  ∀ (s : State) (rest : List WriteAnswer), s.fsm = .sending → s.portWrites = .ok :: rest →
    s.k.toNat = s.reqLen.toNat + 3 →
    (s.timeout = 0 → engineStep s =
      ended (afterWrite s (s.frCrc.extractLsb' 8 8) .ok rest) .timeout 0x0100 0 0) ∧
    (s.timeout ≠ 0 → (engineStep s).fsm = .waitFirst)

/-- The receive phase starts (R100): after byte `L + 3`, with `TIMEOUT != 0`. -/
def Obligations.NonzeroTimeoutStartsReception : Prop :=
  ∀ (s : State) (rest : List WriteAnswer), s.fsm = .sending → s.portWrites = .ok :: rest →
    s.k.toNat = s.reqLen.toNat + 3 → s.timeout ≠ 0 →
    engineStep s =
      { afterWrite s (s.frCrc.extractLsb' 8 8) .ok rest with
        frCrc := 0xFFFF, i := 0, bad := false, exc := false, excCode := 0x00, fsm := .waitFirst }

/-- The read window (R101): `TIMEOUT` in WAIT_FIRST, `IDLE_MS` in RECEIVING, which this hardware sets to 2 (R5); the frame
ends at the first NO_BYTE, and a byte before it that is not the 257th does not end it. -/
def Obligations.ReadWindowDependsOnState : Prop :=
  (∀ (s : State) (a : ReadAnswer) (rest : List ReadAnswer), s.portReads = a :: rest →
    (s.fsm = .waitFirst → (engineStep s).portLog = s.portLog ++ [.read s.timeout a]) ∧
    (s.fsm = .receiving → (engineStep s).portLog = s.portLog ++ [.read s.params.idleMs a]) ∧
    (s.fsm = .waitFirst ∨ s.fsm = .receiving →
      (a = .noByte → (engineStep s).fsm = .idle) ∧
      (∀ b, a = .byte b → s.i.toNat ≤ 255 → (engineStep s).fsm = .receiving))) ∧
  State.reset.params.idleMs = 2

/-- The 257th byte (R104): BAD_FRAME at once; the byte is neither folded nor stored. -/
def Obligations.TooLongFrameIsBadFrame : Prop :=
  ∀ (s : State) (b : Byte) (rest : List ReadAnswer),
    s.fsm = .waitFirst ∨ s.fsm = .receiving → s.portReads = .byte b :: rest → 255 < s.i.toNat →
    engineStep s = ended (afterRead s (.byte b) rest) .badFrame 0x0301 0 0

/-- Every byte that is not the 257th (R105, R111), stored or not: it is folded into `FR_CRC`, `I` advances by one and `FSM`
becomes RECEIVING. -/
def Obligations.EveryByteIsFoldedAndCounted : Prop :=
  ∀ (s : State) (b : Byte) (rest : List ReadAnswer),
    s.fsm = .waitFirst ∨ s.fsm = .receiving → s.portReads = .byte b :: rest → s.i.toNat ≤ 255 →
    (engineStep s).frCrc = (s.frCrc >>> 8) ^^^ T ((s.frCrc &&& 0xFF).setWidth 8 ^^^ b) ∧
    (engineStep s).i.toNat = s.i.toNat + 1 ∧ (engineStep s).fsm = .receiving

/-- Byte 0 (R106, with R105 and R111): folded, compared with `SLAVE`, not stored; `FSM` becomes RECEIVING. -/
def Obligations.FirstByteIsComparedWithSlave : Prop :=
  ∀ (s : State) (b : Byte) (rest : List ReadAnswer),
    s.fsm = .waitFirst ∨ s.fsm = .receiving → s.portReads = .byte b :: rest → s.i = 0 →
    engineStep s =
      { afterRead s (.byte b) rest with
        frCrc := fold s.frCrc b
        bad := if b ≠ s.slave then true else s.bad
        i := 1
        fsm := .receiving }

/-- Byte 1 (R107, with R105 and R111): the exception marker is tested first, then the function code; not stored. -/
def Obligations.SecondByteDecidesException : Prop :=
  ∀ (s : State) (b : Byte) (rest : List ReadAnswer),
    s.fsm = .waitFirst ∨ s.fsm = .receiving → s.portReads = .byte b :: rest → s.i = 1 →
    engineStep s =
      { afterRead s (.byte b) rest with
        frCrc := fold s.frCrc b
        exc := if b = (s.func ||| 0x80) then true else s.exc
        bad := if b = (s.func ||| 0x80) then s.bad else if b ≠ s.func then true else s.bad
        i := 2
        fsm := .receiving }

/-- Later bytes of an exception frame (R108, with R105 and R111): byte 2 goes to `EXC_CODE`; bytes 3 and later are only
folded and counted. -/
def Obligations.ExceptionFrameBytesAreNotStored : Prop :=
  ∀ (s : State) (b : Byte) (rest : List ReadAnswer),
    s.fsm = .waitFirst ∨ s.fsm = .receiving → s.portReads = .byte b :: rest →
    s.exc = true → 2 ≤ s.i.toNat → s.i.toNat ≤ 255 →
    engineStep s =
      { afterRead s (.byte b) rest with
        frCrc := fold s.frCrc b
        excCode := if s.i = 2 then b else s.excCode
        i := s.i + 1
        fsm := .receiving }

/-- Later bytes of a normal frame (R109, R110, with R105 and R111): stored while the index is below `2 + RSP_LEN`, whether
BAD is set or not; neither stored nor marked at the two CRC positions; from `4 + RSP_LEN` on they set BAD. -/
def Obligations.NormalFrameBytesAreStoredOrMarked : Prop :=
  ∀ (s : State) (b : Byte) (rest : List ReadAnswer),
    s.fsm = .waitFirst ∨ s.fsm = .receiving → s.portReads = .byte b :: rest →
    s.exc = false → 2 ≤ s.i.toNat → s.i.toNat ≤ 255 →
    ∃ m : Memory,
      engineStep s =
        { afterRead s (.byte b) rest with
          frCrc := fold s.frCrc b
          buf := m
          bad := if 4 + s.rspLen.toNat ≤ s.i.toNat then true else s.bad
          i := s.i + 1
          fsm := .receiving } ∧
      (s.i.toNat < 2 + s.rspLen.toNat →
        Memory.read m (s.rspBase + BitVec.ofNat 8 (s.i.toNat - 2)) = some b ∧
        ∀ a : Byte, a ≠ s.rspBase + BitVec.ofNat 8 (s.i.toNat - 2) →
          Memory.read m a = Memory.read s.buf a) ∧
      (2 + s.rspLen.toNat ≤ s.i.toNat → m = s.buf)

/-- A read error (R112, R121): the transaction ends at once with TRANSPORT; bytes already stored stay. -/
def Obligations.ReadErrorEndsTransaction : Prop :=
  ∀ (s : State) (e : Half) (rest : List ReadAnswer),
    s.fsm = .waitFirst ∨ s.fsm = .receiving → s.portReads = .xerr e :: rest →
    engineStep s = ended (afterRead s (.xerr e) rest) .transport 0x0400 0 e

/-- The classifier (R113): with `n = I`, the first test that holds gives the outcome, for either value of `MIN_FRAME` (R7).
In states that satisfy the invariant, `n == 0` happens only in WAIT_FIRST, and on OK payload byte `j` is in the buffer RAM
at `RSP_BASE + j`. -/
def Obligations.ClassifierAppliesTestsInOrder : Prop :=
  ∀ (s : State) (rest : List ReadAnswer),
    s.fsm = .waitFirst ∨ s.fsm = .receiving → s.portReads = .noByte :: rest →
    (s.i.toNat = 0 → engineStep s = ended (afterRead s .noByte rest) .timeout 0x0100 0 0 ∧
      (Inv s → s.fsm = .waitFirst)) ∧
    (s.i.toNat ≠ 0 → s.i.toNat < s.params.minFrame.toNat →
      engineStep s = ended (afterRead s .noByte rest) .badFrame 0x0301 0 0) ∧
    (s.params.minFrame.toNat ≤ s.i.toNat →
      (s.frCrc ≠ 0 → engineStep s = ended (afterRead s .noByte rest) .badCrc 0x0302 0 0) ∧
      (s.frCrc = 0 →
        (s.exc = true → s.i.toNat = 5 →
          engineStep s = ended (afterRead s .noByte rest) .exception (s.excCode.setWidth 16) 0 0) ∧
        (s.exc = true → s.i.toNat ≠ 5 →
          engineStep s = ended (afterRead s .noByte rest) .invalidResponse 0x0303 0 0) ∧
        (s.exc = false → s.bad = true →
          engineStep s = ended (afterRead s .noByte rest) .invalidResponse 0x0303 0 0) ∧
        (s.exc = false → s.bad = false →
          ∃ m : Index, m.toNat = s.i.toNat - 4 ∧
            engineStep s = ended (afterRead s .noByte rest) .ok 0x0000 m 0 ∧
            (Inv s → ∀ (j : Nat) (v : Byte), j < m.toNat →
              (lastN s.i.toNat s.received)[j + 2]? = some v →
              Memory.read (engineStep s).buf (s.rspBase + BitVec.ofNat 8 j) = some v))))

/-- `finish` (R122): the four result registers and `FSM` are written, and no other register. -/
def Obligations.FinishLatchesOutcome : Prop :=
  ∀ s : State,
    (∀ m, finish (.ok m) s = ended s .ok 0x0000 m 0) ∧
    finish .exception s = ended s .exception (s.excCode.setWidth 16) 0 0 ∧
    finish .timeout s = ended s .timeout 0x0100 0 0 ∧
    finish .badFrame s = ended s .badFrame 0x0301 0 0 ∧
    finish .badCrc s = ended s .badCrc 0x0302 0 0 ∧
    finish .invalidResponse s = ended s .invalidResponse 0x0303 0 0 ∧
    ∀ e, finish (.transport e) s = ended s .transport 0x0400 0 e

/-- The names of the exception codes (R119, R120): the ten codes of the table have their kinds, every other code has none,
and every code is reported raw. -/
def Obligations.ExceptionCodesAreReportedRaw : Prop :=
  (∀ s : State, (finish .exception s).resKind = .exception ∧
    (finish .exception s).resCode = s.excCode.setWidth 16) ∧
  slaveException 0x01 = some .illegalFunction ∧
  slaveException 0x02 = some .illegalDataAddress ∧
  slaveException 0x03 = some .illegalDataValue ∧
  slaveException 0x04 = some .slaveDeviceFailure ∧
  slaveException 0x05 = some .acknowledge ∧
  slaveException 0x06 = some .slaveDeviceBusy ∧
  slaveException 0x07 = some .negativeAcknowledge ∧
  slaveException 0x08 = some .memoryParityError ∧
  slaveException 0x0A = some .gatewayPathUnavailable ∧
  slaveException 0x0B = some .gatewayNoResponse ∧
  ∀ c : Byte, slaveException c = none ↔ c = 0x00 ∨ c = 0x09 ∨ 0x0C ≤ c.toNat

/-- The complete set of `FSM` transitions (R114): every step takes one row of the table, or is the reset input, or leaves
`FSM` alone without a port request. -/
def Obligations.EveryStepTakesATableTransition : Prop :=
  ∀ s t : State, Inv s → step s = .next t → FsmEdge s t

/-! ## Whole-machine rules -/

/-- The invariant holds after reset. -/
def Obligations.InvariantHoldsAtReset : Prop := Inv State.reset

/-- Every step keeps the invariant, from every state that satisfies it: the memory stays canonical, the result registers
agree (R33 to R36), no outcome is latched while a transaction runs (R142), the bytes sent are a prefix of the request frame
with `FR_CRC` its running CRC (R29, R62), and the bytes received determine `I`, `FR_CRC`, `EXC`, `BAD`, `EXC_CODE` and the
stored payload (R28 to R32, R105 to R111). -/
def Obligations.StepKeepsInvariant : Prop :=
  ∀ s t : State, Inv s → step s = .next t → Inv t

/-- The request frame (R62): from an accepted FRM.GO, if the port accepts every byte, the `REQ_LEN + 4` ENGINE steps put
exactly the request frame on the line, then wait or end by `TIMEOUT`. The payload is the request region's bytes, an
unwritten one being anything. -/
def Obligations.TransactionSendsTheRequestFrame : Prop :=
  ∀ (s : State) (rest : List WriteAnswer), s.fsm = .idle → s.inputs = [.command 0xB0000000] →
    s.portWrites = List.replicate (s.reqLen.toNat + 4) .ok ++ rest →
    ∃ (t : State) (payload : List Byte),
      stepN (s.reqLen.toNat + 5) s = .next t ∧
      payload.length = s.reqLen.toNat ∧ AgreesWithBuf s.buf s.reqBase payload ∧
      t.sent = s.sent ++ requestFrame s.slave s.func payload ∧
      t.received = s.received ∧ t.buf = s.buf ∧ t.portWrites = rest ∧ t.portReads = s.portReads ∧
      (s.timeout = 0 → t.fsm = .idle ∧ t.resKind = .timeout ∧ t.resCode = 0x0100) ∧
      (s.timeout ≠ 0 → t.fsm = .waitFirst ∧ t.resKind = .none)

/-- Reception refines the frame-level classifier (R63, R64, R65, R113): a frame of at most 256 bytes followed by NO_BYTE
ends the transaction with the outcome of that frame; on OK the host reads each payload byte at `RSP_BASE + j`; no byte
outside the response region changes; the first read has the window `TIMEOUT`, the others `IDLE_MS`. -/
def Obligations.ReceptionClassifiesTheWholeFrame : Prop :=
  ∀ (s : State) (frame : List Byte) (rest : List ReadAnswer),
    Inv s → s.fsm = .waitFirst → s.inputs = [] → frame.length ≤ 256 →
    s.portReads = frame.map ReadAnswer.byte ++ .noByte :: rest →
    ∃ (t : State) (e : Ending),
      stepN (frame.length + 1) s = .next t ∧
      e = frameEnding s.params.minFrame.toNat s.slave s.func s.rspLen frame ∧
      t.fsm = .idle ∧ t.resKind = e.kind ∧ t.resCode = e.code (frame.getD 2 0) ∧
      t.resLen = e.len ∧ t.xerr = 0 ∧ t.portReads = rest ∧ t.sent = s.sent ∧
      t.received = s.received ++ frame ∧
      t.windows = s.windows ++ s.timeout :: List.replicate frame.length s.params.idleMs ∧
      (∀ (m : Index) (j : Nat) (v : Byte), e = .ok m → j < m.toNat → frame[j + 2]? = some v →
        exec (.bufRd (s.rspBase + BitVec.ofNat 8 j)) t =
          .next { t with response := some { ack := .ok, rdata := v.setWidth 32 } }) ∧
      ∀ a : Byte, (∀ j, j < s.rspLen.toNat → a ≠ s.rspBase + BitVec.ofNat 8 j) →
        Memory.read t.buf a = Memory.read s.buf a

/-- A transaction ends (R115): from any running state, if the port answers (log 2) and nothing else is pending, so that every
step is the ENGINE's (log 1), at most `(REQ_LEN + 4) + 257` ENGINE steps lead to IDLE with an outcome latched (R116). -/
def Obligations.TransactionEndsInBoundedSteps : Prop :=
  ∀ s : State, Inv s → s.fsm ≠ .idle → s.inputs = [] →
    s.reqLen.toNat + 4 ≤ s.portWrites.length → 257 ≤ s.portReads.length →
    ∃ (n : Nat) (t : State), n ≤ (s.reqLen.toNat + 4) + 257 ∧
      stepN n s = .next t ∧ t.fsm = .idle ∧ t.resKind ≠ .none

/-- The two reply layouts (R63, R64) with a correct CRC, received from WAIT_FIRST with nothing else pending (log 1) and then
NO_BYTE (log 2), of at most 256 bytes and not shorter than `MIN_FRAME`: a normal reply that fits the response buffer ends in
OK with its payload length, and the host reads its payload at `RSP_BASE`; a reply whose function byte is the exception marker
ends in EXCEPTION with its code at five bytes and in INVALID_RESPONSE at any other length, from whichever slave it comes and
whatever the response buffer's length, and leaves the buffer RAM as it was. -/
def Obligations.CorrectRepliesAreAccepted : Prop :=
  ∀ (s : State) (payload : List Byte) (rest : List ReadAnswer),
    Inv s → s.fsm = .waitFirst → s.inputs = [] →
    payload.length ≤ 252 → s.params.minFrame.toNat ≤ payload.length + 4 →
    (s.func ≠ s.func ||| 0x80 → payload.length ≤ s.rspLen.toNat →
      s.portReads = (withCrc (s.slave :: s.func :: payload)).map ReadAnswer.byte ++ .noByte :: rest →
      ∃ t : State, stepN (payload.length + 5) s = .next t ∧
        t.fsm = .idle ∧ t.resKind = .ok ∧ t.resCode = 0x0000 ∧ t.resLen.toNat = payload.length ∧
        t.xerr = 0 ∧ t.portReads = rest ∧
        ∀ (j : Nat) (v : Byte), payload[j]? = some v →
          exec (.bufRd (s.rspBase + BitVec.ofNat 8 j)) t =
            .next { t with response := some { ack := .ok, rdata := v.setWidth 32 } }) ∧
    ∀ slave : Byte,
      s.portReads =
        (withCrc (slave :: (s.func ||| 0x80) :: payload)).map ReadAnswer.byte ++ .noByte :: rest →
      ∃ t : State, stepN (payload.length + 5) s = .next t ∧
        t.fsm = .idle ∧ t.resLen = 0 ∧ t.xerr = 0 ∧ t.portReads = rest ∧ t.buf = s.buf ∧
        (∀ code : Byte, payload = [code] →
          t.resKind = .exception ∧ t.resCode = code.setWidth 16) ∧
        (payload.length ≠ 1 → t.resKind = .invalidResponse ∧ t.resCode = 0x0303)

/-- What the ENGINE leaves alone (R122, R127, R144, R145): the configuration registers and `CRC_ACC`, and it behaves the same
whatever `CRC_ACC` holds. It leaves alone, too, what the model holds beside the registers: the parameters of R5 and R7 (log 8),
the answer to the last command (log 4) and the pending inputs (log 1). -/
def Obligations.EngineKeepsConfigurationAndAccumulator : Prop :=
  ∀ s : State,
    (engineStep s).slave = s.slave ∧ (engineStep s).func = s.func ∧
    (engineStep s).timeout = s.timeout ∧
    (engineStep s).reqBase = s.reqBase ∧ (engineStep s).reqLen = s.reqLen ∧
    (engineStep s).rspBase = s.rspBase ∧ (engineStep s).rspLen = s.rspLen ∧
    (engineStep s).params = s.params ∧
    (engineStep s).response = s.response ∧ (engineStep s).inputs = s.inputs ∧
    ∀ c : Half, engineStep { s with crcAcc := c } = { engineStep s with crcAcc := c }

/-- The CRC incrementer can be used during a transaction without a hazard (R144, R126): its register commands and an ENGINE
step give the same state in either order. -/
def Obligations.CrcCommandsCommuteWithEngine : Prop :=
  ∀ (s : State) (i : Instr) (rest : List Input),
    i = .crcInit ∨ (∃ b, i = .crcFold b) ∨ i = .crcRead →
    ∃ t : State,
      stepN 2 { s with inputs := .command (encode i) :: .engineTurn :: rest } = .next t ∧
      stepN 2 { s with inputs := .engineTurn :: .command (encode i) :: rest } = .next t

/-- Where the ENGINE writes the buffer RAM (R55, R60): never in SENDING or WAIT_FIRST, and in RECEIVING only inside the
response region. -/
def Obligations.EngineWritesOnlyTheResponseRegion : Prop :=
  ∀ s : State, Inv s →
    (s.fsm ≠ .receiving → (engineStep s).buf = s.buf) ∧
    ∀ a : Byte, (∀ j, j < s.rspLen.toNat → a ≠ s.rspBase + BitVec.ofNat 8 j) →
      Memory.read (engineStep s).buf a = Memory.read s.buf a

/-- The port's bytes outlive everything but a read (R138, R140), and at most one port request is made per step (R51): neither
a command, nor reset, nor the end of a transaction takes or drops an answer (the port's answers: log 2). No step changes the
parameters of R5 and R7 (log 8), not even the reset input (log 12). -/
def Obligations.PortAnswersAreTakenOnlyByRequests : Prop :=
  ∀ s t : State, step s = .next t →
    t.params = s.params ∧
    ((t.portReads = s.portReads ∧ t.portWrites = s.portWrites ∧ t.portLog = s.portLog) ∨
     (∃ a w, (s.fsm = .waitFirst ∨ s.fsm = .receiving) ∧ s.portReads = a :: t.portReads ∧
        t.portWrites = s.portWrites ∧ t.portLog = s.portLog ++ [.read w a]) ∨
     (∃ a b, s.fsm = .sending ∧ s.portWrites = a :: t.portWrites ∧
        t.portReads = s.portReads ∧ t.portLog = s.portLog ++ [.write b a]))
end

