-- ==== Sys2Proof/Laws/State.lean ====
section
/-! SUPPORT. What each named update of the state does to each field, so that no proof unfolds a record update. -/

namespace Sys2Proof.Machine

/-! The answer to a command -/

@[simp] theorem respond_crcAcc (a : Ack) (d : Word) (s : State) : (respond a d s).crcAcc = s.crcAcc := rfl
@[simp] theorem respond_slave (a : Ack) (d : Word) (s : State) : (respond a d s).slave = s.slave := rfl
@[simp] theorem respond_func (a : Ack) (d : Word) (s : State) : (respond a d s).func = s.func := rfl
@[simp] theorem respond_timeout (a : Ack) (d : Word) (s : State) : (respond a d s).timeout = s.timeout := rfl
@[simp] theorem respond_reqBase (a : Ack) (d : Word) (s : State) : (respond a d s).reqBase = s.reqBase := rfl
@[simp] theorem respond_reqLen (a : Ack) (d : Word) (s : State) : (respond a d s).reqLen = s.reqLen := rfl
@[simp] theorem respond_rspBase (a : Ack) (d : Word) (s : State) : (respond a d s).rspBase = s.rspBase := rfl
@[simp] theorem respond_rspLen (a : Ack) (d : Word) (s : State) : (respond a d s).rspLen = s.rspLen := rfl
@[simp] theorem respond_fsm (a : Ack) (d : Word) (s : State) : (respond a d s).fsm = s.fsm := rfl
@[simp] theorem respond_k (a : Ack) (d : Word) (s : State) : (respond a d s).k = s.k := rfl
@[simp] theorem respond_i (a : Ack) (d : Word) (s : State) : (respond a d s).i = s.i := rfl
@[simp] theorem respond_frCrc (a : Ack) (d : Word) (s : State) : (respond a d s).frCrc = s.frCrc := rfl
@[simp] theorem respond_bad (a : Ack) (d : Word) (s : State) : (respond a d s).bad = s.bad := rfl
@[simp] theorem respond_exc (a : Ack) (d : Word) (s : State) : (respond a d s).exc = s.exc := rfl
@[simp] theorem respond_excCode (a : Ack) (d : Word) (s : State) : (respond a d s).excCode = s.excCode := rfl
@[simp] theorem respond_resKind (a : Ack) (d : Word) (s : State) : (respond a d s).resKind = s.resKind := rfl
@[simp] theorem respond_resCode (a : Ack) (d : Word) (s : State) : (respond a d s).resCode = s.resCode := rfl
@[simp] theorem respond_resLen (a : Ack) (d : Word) (s : State) : (respond a d s).resLen = s.resLen := rfl
@[simp] theorem respond_xerr (a : Ack) (d : Word) (s : State) : (respond a d s).xerr = s.xerr := rfl
@[simp] theorem respond_buf (a : Ack) (d : Word) (s : State) : (respond a d s).buf = s.buf := rfl
@[simp] theorem respond_response (a : Ack) (d : Word) (s : State) : (respond a d s).response = some { ack := a, rdata := d } := rfl
@[simp] theorem respond_params (a : Ack) (d : Word) (s : State) : (respond a d s).params = s.params := rfl
@[simp] theorem respond_inputs (a : Ack) (d : Word) (s : State) : (respond a d s).inputs = s.inputs := rfl
@[simp] theorem respond_portWrites (a : Ack) (d : Word) (s : State) : (respond a d s).portWrites = s.portWrites := rfl
@[simp] theorem respond_portReads (a : Ack) (d : Word) (s : State) : (respond a d s).portReads = s.portReads := rfl
@[simp] theorem respond_portLog (a : Ack) (d : Word) (s : State) : (respond a d s).portLog = s.portLog := rfl
@[simp] theorem respond_draws (a : Ack) (d : Word) (s : State) : (respond a d s).draws = s.draws := rfl

/-! A write to the buffer RAM -/

@[simp] theorem memWrite_crcAcc (a v : Byte) (s : State) : (memWrite a v s).crcAcc = s.crcAcc := rfl
@[simp] theorem memWrite_slave (a v : Byte) (s : State) : (memWrite a v s).slave = s.slave := rfl
@[simp] theorem memWrite_func (a v : Byte) (s : State) : (memWrite a v s).func = s.func := rfl
@[simp] theorem memWrite_timeout (a v : Byte) (s : State) : (memWrite a v s).timeout = s.timeout := rfl
@[simp] theorem memWrite_reqBase (a v : Byte) (s : State) : (memWrite a v s).reqBase = s.reqBase := rfl
@[simp] theorem memWrite_reqLen (a v : Byte) (s : State) : (memWrite a v s).reqLen = s.reqLen := rfl
@[simp] theorem memWrite_rspBase (a v : Byte) (s : State) : (memWrite a v s).rspBase = s.rspBase := rfl
@[simp] theorem memWrite_rspLen (a v : Byte) (s : State) : (memWrite a v s).rspLen = s.rspLen := rfl
@[simp] theorem memWrite_fsm (a v : Byte) (s : State) : (memWrite a v s).fsm = s.fsm := rfl
@[simp] theorem memWrite_k (a v : Byte) (s : State) : (memWrite a v s).k = s.k := rfl
@[simp] theorem memWrite_i (a v : Byte) (s : State) : (memWrite a v s).i = s.i := rfl
@[simp] theorem memWrite_frCrc (a v : Byte) (s : State) : (memWrite a v s).frCrc = s.frCrc := rfl
@[simp] theorem memWrite_bad (a v : Byte) (s : State) : (memWrite a v s).bad = s.bad := rfl
@[simp] theorem memWrite_exc (a v : Byte) (s : State) : (memWrite a v s).exc = s.exc := rfl
@[simp] theorem memWrite_excCode (a v : Byte) (s : State) : (memWrite a v s).excCode = s.excCode := rfl
@[simp] theorem memWrite_resKind (a v : Byte) (s : State) : (memWrite a v s).resKind = s.resKind := rfl
@[simp] theorem memWrite_resCode (a v : Byte) (s : State) : (memWrite a v s).resCode = s.resCode := rfl
@[simp] theorem memWrite_resLen (a v : Byte) (s : State) : (memWrite a v s).resLen = s.resLen := rfl
@[simp] theorem memWrite_xerr (a v : Byte) (s : State) : (memWrite a v s).xerr = s.xerr := rfl
@[simp] theorem memWrite_buf (a v : Byte) (s : State) : (memWrite a v s).buf = Memory.write s.buf a v := rfl
@[simp] theorem memWrite_response (a v : Byte) (s : State) : (memWrite a v s).response = s.response := rfl
@[simp] theorem memWrite_params (a v : Byte) (s : State) : (memWrite a v s).params = s.params := rfl
@[simp] theorem memWrite_inputs (a v : Byte) (s : State) : (memWrite a v s).inputs = s.inputs := rfl
@[simp] theorem memWrite_portWrites (a v : Byte) (s : State) : (memWrite a v s).portWrites = s.portWrites := rfl
@[simp] theorem memWrite_portReads (a v : Byte) (s : State) : (memWrite a v s).portReads = s.portReads := rfl
@[simp] theorem memWrite_portLog (a v : Byte) (s : State) : (memWrite a v s).portLog = s.portLog := rfl
@[simp] theorem memWrite_draws (a v : Byte) (s : State) : (memWrite a v s).draws = s.draws := rfl

/-! A draw -/

@[simp] theorem draw_crcAcc (s : State) : ((draw s).2).crcAcc = s.crcAcc := rfl
@[simp] theorem draw_slave (s : State) : ((draw s).2).slave = s.slave := rfl
@[simp] theorem draw_func (s : State) : ((draw s).2).func = s.func := rfl
@[simp] theorem draw_timeout (s : State) : ((draw s).2).timeout = s.timeout := rfl
@[simp] theorem draw_reqBase (s : State) : ((draw s).2).reqBase = s.reqBase := rfl
@[simp] theorem draw_reqLen (s : State) : ((draw s).2).reqLen = s.reqLen := rfl
@[simp] theorem draw_rspBase (s : State) : ((draw s).2).rspBase = s.rspBase := rfl
@[simp] theorem draw_rspLen (s : State) : ((draw s).2).rspLen = s.rspLen := rfl
@[simp] theorem draw_fsm (s : State) : ((draw s).2).fsm = s.fsm := rfl
@[simp] theorem draw_k (s : State) : ((draw s).2).k = s.k := rfl
@[simp] theorem draw_i (s : State) : ((draw s).2).i = s.i := rfl
@[simp] theorem draw_frCrc (s : State) : ((draw s).2).frCrc = s.frCrc := rfl
@[simp] theorem draw_bad (s : State) : ((draw s).2).bad = s.bad := rfl
@[simp] theorem draw_exc (s : State) : ((draw s).2).exc = s.exc := rfl
@[simp] theorem draw_excCode (s : State) : ((draw s).2).excCode = s.excCode := rfl
@[simp] theorem draw_resKind (s : State) : ((draw s).2).resKind = s.resKind := rfl
@[simp] theorem draw_resCode (s : State) : ((draw s).2).resCode = s.resCode := rfl
@[simp] theorem draw_resLen (s : State) : ((draw s).2).resLen = s.resLen := rfl
@[simp] theorem draw_xerr (s : State) : ((draw s).2).xerr = s.xerr := rfl
@[simp] theorem draw_buf (s : State) : ((draw s).2).buf = s.buf := rfl
@[simp] theorem draw_response (s : State) : ((draw s).2).response = s.response := rfl
@[simp] theorem draw_params (s : State) : ((draw s).2).params = s.params := rfl
@[simp] theorem draw_inputs (s : State) : ((draw s).2).inputs = s.inputs := rfl
@[simp] theorem draw_portWrites (s : State) : ((draw s).2).portWrites = s.portWrites := rfl
@[simp] theorem draw_portReads (s : State) : ((draw s).2).portReads = s.portReads := rfl
@[simp] theorem draw_portLog (s : State) : ((draw s).2).portLog = s.portLog := rfl
@[simp] theorem draw_draws (s : State) : ((draw s).2).draws = s.draws + 1 := rfl

/-! The end of a transaction -/

@[simp] theorem finish_crcAcc (e : Ending) (s : State) : (finish e s).crcAcc = s.crcAcc := rfl
@[simp] theorem finish_slave (e : Ending) (s : State) : (finish e s).slave = s.slave := rfl
@[simp] theorem finish_func (e : Ending) (s : State) : (finish e s).func = s.func := rfl
@[simp] theorem finish_timeout (e : Ending) (s : State) : (finish e s).timeout = s.timeout := rfl
@[simp] theorem finish_reqBase (e : Ending) (s : State) : (finish e s).reqBase = s.reqBase := rfl
@[simp] theorem finish_reqLen (e : Ending) (s : State) : (finish e s).reqLen = s.reqLen := rfl
@[simp] theorem finish_rspBase (e : Ending) (s : State) : (finish e s).rspBase = s.rspBase := rfl
@[simp] theorem finish_rspLen (e : Ending) (s : State) : (finish e s).rspLen = s.rspLen := rfl
@[simp] theorem finish_fsm (e : Ending) (s : State) : (finish e s).fsm = .idle := rfl
@[simp] theorem finish_k (e : Ending) (s : State) : (finish e s).k = s.k := rfl
@[simp] theorem finish_i (e : Ending) (s : State) : (finish e s).i = s.i := rfl
@[simp] theorem finish_frCrc (e : Ending) (s : State) : (finish e s).frCrc = s.frCrc := rfl
@[simp] theorem finish_bad (e : Ending) (s : State) : (finish e s).bad = s.bad := rfl
@[simp] theorem finish_exc (e : Ending) (s : State) : (finish e s).exc = s.exc := rfl
@[simp] theorem finish_excCode (e : Ending) (s : State) : (finish e s).excCode = s.excCode := rfl
@[simp] theorem finish_resKind (e : Ending) (s : State) : (finish e s).resKind = e.kind := rfl
@[simp] theorem finish_resCode (e : Ending) (s : State) : (finish e s).resCode = e.code s.excCode := rfl
@[simp] theorem finish_resLen (e : Ending) (s : State) : (finish e s).resLen = e.len := rfl
@[simp] theorem finish_xerr (e : Ending) (s : State) : (finish e s).xerr = e.err := rfl
@[simp] theorem finish_buf (e : Ending) (s : State) : (finish e s).buf = s.buf := rfl
@[simp] theorem finish_response (e : Ending) (s : State) : (finish e s).response = s.response := rfl
@[simp] theorem finish_params (e : Ending) (s : State) : (finish e s).params = s.params := rfl
@[simp] theorem finish_inputs (e : Ending) (s : State) : (finish e s).inputs = s.inputs := rfl
@[simp] theorem finish_portWrites (e : Ending) (s : State) : (finish e s).portWrites = s.portWrites := rfl
@[simp] theorem finish_portReads (e : Ending) (s : State) : (finish e s).portReads = s.portReads := rfl
@[simp] theorem finish_portLog (e : Ending) (s : State) : (finish e s).portLog = s.portLog := rfl
@[simp] theorem finish_draws (e : Ending) (s : State) : (finish e s).draws = s.draws := rfl

/-! The start of a transaction -/

@[simp] theorem startTransaction_crcAcc (s : State) : (startTransaction s).crcAcc = s.crcAcc := rfl
@[simp] theorem startTransaction_slave (s : State) : (startTransaction s).slave = s.slave := rfl
@[simp] theorem startTransaction_func (s : State) : (startTransaction s).func = s.func := rfl
@[simp] theorem startTransaction_timeout (s : State) : (startTransaction s).timeout = s.timeout := rfl
@[simp] theorem startTransaction_reqBase (s : State) : (startTransaction s).reqBase = s.reqBase := rfl
@[simp] theorem startTransaction_reqLen (s : State) : (startTransaction s).reqLen = s.reqLen := rfl
@[simp] theorem startTransaction_rspBase (s : State) : (startTransaction s).rspBase = s.rspBase := rfl
@[simp] theorem startTransaction_rspLen (s : State) : (startTransaction s).rspLen = s.rspLen := rfl
@[simp] theorem startTransaction_fsm (s : State) : (startTransaction s).fsm = .sending := rfl
@[simp] theorem startTransaction_k (s : State) : (startTransaction s).k = 0#9 := rfl
@[simp] theorem startTransaction_i (s : State) : (startTransaction s).i = 0#9 := rfl
@[simp] theorem startTransaction_frCrc (s : State) : (startTransaction s).frCrc = 0xFFFF#16 := rfl
@[simp] theorem startTransaction_bad (s : State) : (startTransaction s).bad = false := rfl
@[simp] theorem startTransaction_exc (s : State) : (startTransaction s).exc = false := rfl
@[simp] theorem startTransaction_excCode (s : State) : (startTransaction s).excCode = 0#8 := rfl
@[simp] theorem startTransaction_resKind (s : State) : (startTransaction s).resKind = .none := rfl
@[simp] theorem startTransaction_resCode (s : State) : (startTransaction s).resCode = 0#16 := rfl
@[simp] theorem startTransaction_resLen (s : State) : (startTransaction s).resLen = 0#9 := rfl
@[simp] theorem startTransaction_xerr (s : State) : (startTransaction s).xerr = 0#16 := rfl
@[simp] theorem startTransaction_buf (s : State) : (startTransaction s).buf = s.buf := rfl
@[simp] theorem startTransaction_response (s : State) : (startTransaction s).response = s.response := rfl
@[simp] theorem startTransaction_params (s : State) : (startTransaction s).params = s.params := rfl
@[simp] theorem startTransaction_inputs (s : State) : (startTransaction s).inputs = s.inputs := rfl
@[simp] theorem startTransaction_portWrites (s : State) : (startTransaction s).portWrites = s.portWrites := rfl
@[simp] theorem startTransaction_portReads (s : State) : (startTransaction s).portReads = s.portReads := rfl
@[simp] theorem startTransaction_portLog (s : State) : (startTransaction s).portLog = s.portLog := rfl
@[simp] theorem startTransaction_draws (s : State) : (startTransaction s).draws = s.draws := rfl

/-! The reset input -/

@[simp] theorem resetBlock_crcAcc (s : State) : (resetBlock s).crcAcc = 0xFFFF#16 := rfl
@[simp] theorem resetBlock_slave (s : State) : (resetBlock s).slave = 0#8 := rfl
@[simp] theorem resetBlock_func (s : State) : (resetBlock s).func = 0#8 := rfl
@[simp] theorem resetBlock_timeout (s : State) : (resetBlock s).timeout = 0#16 := rfl
@[simp] theorem resetBlock_reqBase (s : State) : (resetBlock s).reqBase = 0#8 := rfl
@[simp] theorem resetBlock_reqLen (s : State) : (resetBlock s).reqLen = 0#8 := rfl
@[simp] theorem resetBlock_rspBase (s : State) : (resetBlock s).rspBase = 0#8 := rfl
@[simp] theorem resetBlock_rspLen (s : State) : (resetBlock s).rspLen = 0#8 := rfl
@[simp] theorem resetBlock_fsm (s : State) : (resetBlock s).fsm = .idle := rfl
@[simp] theorem resetBlock_k (s : State) : (resetBlock s).k = 0#9 := rfl
@[simp] theorem resetBlock_i (s : State) : (resetBlock s).i = 0#9 := rfl
@[simp] theorem resetBlock_frCrc (s : State) : (resetBlock s).frCrc = 0xFFFF#16 := rfl
@[simp] theorem resetBlock_bad (s : State) : (resetBlock s).bad = false := rfl
@[simp] theorem resetBlock_exc (s : State) : (resetBlock s).exc = false := rfl
@[simp] theorem resetBlock_excCode (s : State) : (resetBlock s).excCode = 0#8 := rfl
@[simp] theorem resetBlock_resKind (s : State) : (resetBlock s).resKind = .none := rfl
@[simp] theorem resetBlock_resCode (s : State) : (resetBlock s).resCode = 0#16 := rfl
@[simp] theorem resetBlock_resLen (s : State) : (resetBlock s).resLen = 0#9 := rfl
@[simp] theorem resetBlock_xerr (s : State) : (resetBlock s).xerr = 0#16 := rfl
@[simp] theorem resetBlock_buf (s : State) : (resetBlock s).buf = [] := rfl
@[simp] theorem resetBlock_response (s : State) : (resetBlock s).response = none := rfl
@[simp] theorem resetBlock_params (s : State) : (resetBlock s).params = s.params := rfl
@[simp] theorem resetBlock_inputs (s : State) : (resetBlock s).inputs = s.inputs := rfl
@[simp] theorem resetBlock_portWrites (s : State) : (resetBlock s).portWrites = s.portWrites := rfl
@[simp] theorem resetBlock_portReads (s : State) : (resetBlock s).portReads = s.portReads := rfl
@[simp] theorem resetBlock_portLog (s : State) : (resetBlock s).portLog = s.portLog := rfl
@[simp] theorem resetBlock_draws (s : State) : (resetBlock s).draws = s.draws := rfl

end Sys2Proof.Machine
end

