-- ==== Sys2Proof/Laws/Memory.lean ====
section
/-! SUPPORT. The buffer RAM: read after write, and the canonical form every operation keeps. -/

namespace Sys2Proof.Machine

@[simp] theorem read_nil (a : Byte) : Memory.read [] a = none := rfl

@[simp] theorem read_write_self (m : Memory) (a v : Byte) :
    Memory.read (Memory.write m a v) a = some v := by
  induction m with
  | nil => simp [Memory.write, Memory.read]
  | cons c m ih =>
    obtain ⟨k, x⟩ := c
    simp only [Memory.write]
    split
    · simp [Memory.read]
    · split
      · simp [Memory.read, *]
      · rename_i h
        simp only [Memory.read, ih, if_neg (Ne.symm h)]

theorem read_write_of_ne (m : Memory) (a v : Byte) {a' : Byte} (h : a' ≠ a) :
    Memory.read (Memory.write m a v) a' = Memory.read m a' := by
  have hn : a.toNat ≠ a'.toNat := fun e => h (BitVec.eq_of_toNat_eq e.symm)
  induction m with
  | nil => simp [Memory.write, Memory.read, hn]
  | cons c m ih =>
    obtain ⟨k, x⟩ := c
    simp only [Memory.write]
    split
    · simp [Memory.read, hn]
    · split
      · rename_i e
        simp [Memory.read, ← e, hn]
      · simp [Memory.read, ih]

theorem risingAbove_mono {lo lo' : Nat} (h : lo ≤ lo') (m : Memory)
    (hm : risingAbove lo' m = true) : risingAbove lo m = true := by
  cases m with
  | nil => rfl
  | cons c m =>
    obtain ⟨k, x⟩ := c
    simp only [risingAbove, Bool.and_eq_true, decide_eq_true_eq] at hm ⊢
    exact ⟨⟨by omega, hm.1.2⟩, hm.2⟩

theorem risingAbove_write (m : Memory) (a v : Byte) (lo : Nat) (hlo : lo ≤ a.toNat)
    (hm : risingAbove lo m = true) : risingAbove lo (Memory.write m a v) = true := by
  have ha : a.toNat < Config.bufBytes := a.isLt
  induction m generalizing lo with
  | nil => simp [Memory.write, risingAbove, hlo, ha]
  | cons c m ih =>
    obtain ⟨k, x⟩ := c
    simp only [risingAbove, Bool.and_eq_true, decide_eq_true_eq] at hm
    simp only [Memory.write]
    split
    · simp only [risingAbove, Bool.and_eq_true, decide_eq_true_eq]
      exact ⟨⟨hlo, ha⟩, ⟨by omega, hm.1.2⟩, hm.2⟩
    · split
      · simp only [risingAbove, Bool.and_eq_true, decide_eq_true_eq]
        exact hm
      · simp only [risingAbove, Bool.and_eq_true, decide_eq_true_eq]
        exact ⟨hm.1, ih (k + 1) (by omega) hm.2⟩

/-- A write keeps the canonical form. -/
theorem wf_write (m : Memory) (a v : Byte) (h : m.wf = true) : (Memory.write m a v).wf = true :=
  risingAbove_write m a v 0 (Nat.zero_le _) h

/-- Nothing is listed after reset, in canonical form. -/
theorem wf_reset : State.reset.buf.wf = true := rfl

theorem regionAddr_eq (base : Byte) (j : Nat) : regionAddr base j = base + BitVec.ofNat 8 j := rfl

theorem regionAddr_ne {base : Byte} {j j' : Nat} (h : j < 256) (h' : j' < 256) (hne : j ≠ j') :
    base + BitVec.ofNat 8 j ≠ base + BitVec.ofNat 8 j' := by
  intro e
  have := congrArg BitVec.toNat (BitVec.add_right_inj base |>.mp e)
  simp only [BitVec.toNat_ofNat] at this
  omega

end Sys2Proof.Machine
end

