-- ==== Sys2Proof/Laws/Ops.lean ====
section
/-! SUPPORT. What each shared operation can do, said once. -/

namespace Sys2Proof.Machine

theorem memRead_written {a v : Byte} {s : State} (h : Memory.read s.buf a = some v) :
    memRead a s = (v, s) := by simp [memRead, h]

theorem memRead_unwritten {a : Byte} {s : State} (h : Memory.read s.buf a = none) :
    memRead a s = (Config.freeByte s.draws, { s with draws := s.draws + 1 }) := by
  simp [memRead, h, draw]

/-- A read changes nothing but the draw counter. -/
theorem memRead_state (a : Byte) (s : State) :
    (memRead a s).2 = { s with draws := (memRead a s).2.draws } := by
  cases h : Memory.read s.buf a with
  | none => rw [memRead_unwritten h]
  | some v => rw [memRead_written h]

/-- A written byte reads as itself. -/
theorem memRead_agrees {a v : Byte} {s : State} (h : Memory.read s.buf a = some v) :
    (memRead a s).1 = v := by rw [memRead_written h]

theorem unlessBusy_idle {f : State → State} {s : State} (h : s.fsm = .idle) :
    unlessBusy f s = f s := by simp [unlessBusy, State.busy, h]

theorem unlessBusy_running {f : State → State} {s : State} (h : s.fsm ≠ .idle) :
    unlessBusy f s = { s with response := some { ack := .busy, rdata := 0 } } := by
  simp [unlessBusy, State.busy, h, raiseBusy, respond]

@[simp] theorem raiseIllegal_eq (s : State) : raiseIllegal s = respond .illegal 0 s := rfl

@[simp] theorem raiseBusy_eq (s : State) : raiseBusy s = respond .busy 0 s := rfl

theorem portWrite_none {b : Byte} {s : State} (h : s.portWrites = []) : portWrite b s = none := by
  simp [portWrite, h]

theorem portWrite_some {b : Byte} {s : State} {a : WriteAnswer} {rest : List WriteAnswer}
    (h : s.portWrites = a :: rest) :
    portWrite b s = some (a, { s with portWrites := rest, portLog := s.portLog ++ [.write b a] }) := by
  simp [portWrite, h]

theorem portRead_none {t : Half} {s : State} (h : s.portReads = []) : portRead t s = none := by
  simp [portRead, h]

theorem portRead_some {t : Half} {s : State} {a : ReadAnswer} {rest : List ReadAnswer}
    (h : s.portReads = a :: rest) :
    portRead t s = some (a, { s with portReads := rest, portLog := s.portLog ++ [.read t a] }) := by
  simp [portRead, h]

/-- Folding a range changes nothing but the draw counter. -/
theorem foldRange_state (base : Byte) (n : Nat) (c : Half) (s : State) :
    (foldRange base n c s).2 = { s with draws := (foldRange base n c s).2.draws } := by
  induction n generalizing base c s with
  | zero => rfl
  | succ n ih =>
    simp only [foldRange]
    rw [ih, memRead_state]

/-! The line, as the port log gives it -/

@[simp] theorem accepted_ok (b : Byte) : PortEvent.accepted (.write b .ok) = some b := rfl
@[simp] theorem accepted_xerr (b : Byte) (e : Half) : PortEvent.accepted (.write b (.xerr e)) = none := rfl
@[simp] theorem accepted_read (t : Half) (a : ReadAnswer) : PortEvent.accepted (.read t a) = none := rfl
@[simp] theorem delivered_byte (t : Half) (b : Byte) : PortEvent.delivered (.read t (.byte b)) = some b := rfl
@[simp] theorem delivered_noByte (t : Half) : PortEvent.delivered (.read t .noByte) = none := rfl
@[simp] theorem delivered_xerr (t : Half) (e : Half) : PortEvent.delivered (.read t (.xerr e)) = none := rfl
@[simp] theorem delivered_write (b : Byte) (a : WriteAnswer) : PortEvent.delivered (.write b a) = none := rfl
@[simp] theorem window_read (t : Half) (a : ReadAnswer) : PortEvent.window (.read t a) = some t := rfl
@[simp] theorem window_write (b : Byte) (a : WriteAnswer) : PortEvent.window (.write b a) = none := rfl

theorem sent_eq (s : State) : s.sent = s.portLog.filterMap PortEvent.accepted := rfl
theorem received_eq (s : State) : s.received = s.portLog.filterMap PortEvent.delivered := rfl
theorem windows_eq (s : State) : s.windows = s.portLog.filterMap PortEvent.window := rfl

end Sys2Proof.Machine
end

