-- ==== Sys2Proof/Laws/CrcStep.lean ====
section
/-! SUPPORT. The CRC step and its sequence form. -/

namespace Sys2Proof.Machine

@[simp] theorem T_zero : T 0#8 = 0#16 := by decide

@[simp] theorem crc_nil : crc [] = Config.crcInit := rfl

theorem crc_append (xs ys : List Byte) : crc (xs ++ ys) = ys.foldl fold (crc xs) :=
  List.foldl_append

theorem crc_concat (xs : List Byte) (b : Byte) : crc (xs ++ [b]) = fold (crc xs) b := by
  rw [crc_append]; rfl

/-- Folding the accumulator's own low byte only shifts it. -/
theorem fold_low (c : Half) : fold c (crcLow c) = c >>> 8 := by
  have h : c.setWidth 8 ^^^ crcLow c = 0#8 := by
    have e : crcLow c = c.setWidth 8 := by
      apply BitVec.eq_of_toNat_eq
      simp [crcLow, BitVec.extractLsb'_toNat]
    rw [e, BitVec.xor_self]
  rw [fold, h, T_zero, BitVec.xor_zero]

/-! The bit-serial form is linear -/

theorem shiftRound_xor (x y : Half) : shiftRound (x ^^^ y) = shiftRound x ^^^ shiftRound y := by
  unfold shiftRound
  simp only [BitVec.getLsbD_xor]
  generalize Config.crcPoly = p
  cases x.getLsbD 0 <;> cases y.getLsbD 0 <;> simp [BitVec.ushiftRight_xor_distrib]
  · ac_rfl
  · ac_rfl
  · rw [show x >>> 1 ^^^ p ^^^ (y >>> 1 ^^^ p) = (x >>> 1 ^^^ y >>> 1) ^^^ (p ^^^ p) by ac_rfl]
    simp

theorem shiftRounds_xor (n : Nat) (x y : Half) :
    shiftRounds n (x ^^^ y) = shiftRounds n x ^^^ shiftRounds n y := by
  induction n generalizing x y with
  | zero => rfl
  | succ n ih => simp only [shiftRounds, shiftRound_xor, ih]

/-- Rounds that drop only zeros are a plain shift. -/
theorem shiftRounds_of_low_zero (n : Nat) (c : Half) (h : ∀ i < n, c.getLsbD i = false) :
    shiftRounds n c = c >>> n := by
  induction n generalizing c with
  | zero => simp [shiftRounds]
  | succ n ih =>
    have h0 : shiftRound c = c >>> 1 := by rw [shiftRound, h 0 (by omega)]; rfl
    rw [shiftRounds, h0, ih, ← BitVec.shiftRight_add, Nat.add_comm]
    intro i hi
    simpa using h (1 + i) (by omega)

end Sys2Proof.Machine
end

