-- ==== Sys2Proof/Laws/Decode.lean ====
section
/-! SUPPORT. Fields of an encoded word, and the decoder opcode by opcode. -/

namespace Sys2Proof

theorem unlessReserved_ok {cmd mask : Word} (h : cmd &&& mask = 0) (i : Instr) :
    unlessReserved cmd mask i = .ok i := if_pos h

theorem unlessReserved_error {cmd mask : Word} (h : cmd &&& mask ≠ 0) (i : Instr) :
    unlessReserved cmd mask i = .error .reservedBits := if_neg h

/-- A guarded command is the command itself, and then no reserved bit is set. -/
theorem unlessReserved_eq_ok {cmd mask : Word} {i j : Instr} :
    unlessReserved cmd mask i = .ok j ↔ cmd &&& mask = 0 ∧ i = j := by
  by_cases h : cmd &&& mask = 0
  · rw [unlessReserved_ok h]
    exact ⟨fun e => ⟨h, Except.ok.inj e⟩, fun e => congrArg _ e.2⟩
  · rw [unlessReserved_error h]
    exact ⟨fun e => (nomatch e), fun e => absurd e.1 h⟩

/-- The bits of a field are the word's bits from `lo` on. -/
theorem getElem_fieldOf (lo width : Nat) (cmd : Word) (n : Nat) (h : n < width) :
    (fieldOf lo width cmd)[n] = cmd.getLsbD (lo + n) := by
  simp [fieldOf]

/-- A word of opcode `op` decodes by that opcode's row. -/
theorem decode_opcode (cmd : Word) :
    decode cmd =
      match (fieldOf 28 4 cmd).toNat with
      | 0x1 => unlessReserved cmd 0x0FFFFFFF .crcInit
      | 0x2 => unlessReserved cmd 0x0FFFFF00 (.crcFold (fieldOf 0 8 cmd))
      | 0x3 =>
        if cmd &&& 0x0E0000FF = 0 ∧ 256 < (fieldOf 16 9 cmd).toNat then .error .foldrLength
        else unlessReserved cmd 0x0E0000FF (.crcFoldr (fieldOf 8 8 cmd) (fieldOf 16 9 cmd))
      | 0x4 => unlessReserved cmd 0x0FFFFFFF .crcRead
      | 0x5 => unlessReserved cmd 0x0FFF0000 (.bufWr (fieldOf 8 8 cmd) (fieldOf 0 8 cmd))
      | 0x6 => unlessReserved cmd 0x0FFF00FF (.bufRd (fieldOf 8 8 cmd))
      | 0x7 => unlessReserved cmd 0x0FFF0000 (.frmAddr (fieldOf 8 8 cmd) (fieldOf 0 8 cmd))
      | 0x8 => unlessReserved cmd 0x0FFF0000 (.frmTmo (fieldOf 0 16 cmd))
      | 0x9 => unlessReserved cmd 0x0FFF0000 (.frmReq (fieldOf 8 8 cmd) (fieldOf 0 8 cmd))
      | 0xA => unlessReserved cmd 0x0FFF0000 (.frmRsp (fieldOf 8 8 cmd) (fieldOf 0 8 cmd))
      | 0xB => unlessReserved cmd 0x0FFFFFFF .frmGo
      | 0xC => unlessReserved cmd 0x0FFFFFFF .frmStat
      | 0xD => unlessReserved cmd 0x0FFFFFFF .frmXerr
      | _ => .error .reservedOpcode := rfl

end Sys2Proof
end

