-- ==== Sys2Proof/Laws/Engine.lean ====
section
/-! SUPPORT. One lemma for each way an ENGINE step can go; together they say everything it can do. -/

namespace Sys2Proof.Machine

theorem engineStep_idle {s : State} (h : s.fsm = .idle) : engineStep s = s := by
  simp [engineStep, h]

theorem engineStep_sending {s : State} (h : s.fsm = .sending) : engineStep s = txStep s := by
  simp [engineStep, h]

theorem engineStep_reading {s : State} (h : s.fsm = .waitFirst ∨ s.fsm = .receiving) :
    engineStep s = rxStep s := by
  rcases h with h | h <;> simp [engineStep, h]

/-! Sending -/

/-- Choosing the byte to send changes nothing but the draw counter. -/
theorem txByte_state (s : State) : (txByte s).2 = { s with draws := (txByte s).2.draws } := by
  unfold txByte
  split_ifs <;> first | rfl | exact memRead_state _ _

theorem txStep_noAnswer {s : State} (h : s.portWrites = []) : txStep s = s := by
  have h' : (txByte s).2.portWrites = [] := by rw [txByte_state]; exact h
  simp [txStep, portWrite_none h']

theorem txStep_xerr {s : State} {e : Half} {rest : List WriteAnswer}
    (h : s.portWrites = .xerr e :: rest) :
    txStep s = finish (.transport e)
      { s with
        portWrites := rest
        portLog := s.portLog ++ [.write (txByte s).1 (.xerr e)]
        draws := (txByte s).2.draws } := by
  have h' : (txByte s).2.portWrites = .xerr e :: rest := by rw [txByte_state]; exact h
  simp only [txStep, portWrite_some h']
  rw [txByte_state]

theorem txStep_ok {s : State} {rest : List WriteAnswer} (h : s.portWrites = .ok :: rest) :
    txStep s = txAccepted (txByte s).1
      { s with
        portWrites := rest
        portLog := s.portLog ++ [.write (txByte s).1 .ok]
        draws := (txByte s).2.draws } := by
  have h' : (txByte s).2.portWrites = .ok :: rest := by rw [txByte_state]; exact h
  simp only [txStep, portWrite_some h']
  rw [txByte_state]

/-- Before the CRC: the byte is folded and `K` advances. -/
theorem txAccepted_body {s : State} (b : Byte) (h : s.k.toNat < s.reqLen.toNat + 2) :
    txAccepted b s = { s with frCrc := fold s.frCrc b, k := s.k + 1 } := by
  have h' : s.k.toNat < s.reqLen.toNat + 3 := by omega
  simp [txAccepted, h, h']

/-- The CRC low byte: not folded, and `K` advances. -/
theorem txAccepted_crcLow {s : State} (b : Byte) (h : s.k.toNat = s.reqLen.toNat + 2) :
    txAccepted b s = { s with k := s.k + 1 } := by
  simp [txAccepted, h]

/-- The CRC high byte: sending is done. -/
theorem txAccepted_crcHigh {s : State} (b : Byte) (h : s.reqLen.toNat + 3 ≤ s.k.toNat) :
    txAccepted b s = txDone s := by
  have h1 : ¬ s.k.toNat < s.reqLen.toNat + 2 := by omega
  have h2 : ¬ s.k.toNat < s.reqLen.toNat + 3 := by omega
  simp [txAccepted, h1, h2]

theorem txDone_broadcast {s : State} (h : s.timeout = 0) : txDone s = finish .timeout s :=
  if_pos h

theorem txDone_wait {s : State} (h : s.timeout ≠ 0) :
    txDone s =
      { s with
        frCrc := 0xFFFF, i := 0, bad := false, exc := false, excCode := 0x00, fsm := .waitFirst } := by
  rw [txDone, if_neg h]
  rfl

/-! Which byte is sent -/

theorem txByte_slave {s : State} (h : s.k.toNat = 0) : txByte s = (s.slave, s) := by
  simp [txByte, h]

theorem txByte_func {s : State} (h : s.k.toNat = 1) : txByte s = (s.func, s) := by
  simp [txByte, h]

theorem txByte_payload {s : State} {j : Nat} (h : s.k.toNat = j + 2) (hj : j < s.reqLen.toNat) :
    txByte s = memRead (s.reqBase + BitVec.ofNat 8 j) s := by
  simp [txByte, h, hj, regionAddr]

theorem txByte_crcLow {s : State} (h : s.k.toNat = s.reqLen.toNat + 2) :
    txByte s = (crcLow s.frCrc, s) := by
  simp [txByte, h]

theorem txByte_crcHigh {s : State} (h : s.reqLen.toNat + 3 ≤ s.k.toNat) :
    txByte s = (crcHigh s.frCrc, s) := by
  have h0 : s.k.toNat ≠ 0 := by omega
  have h1 : s.k.toNat ≠ 1 := by omega
  have h2 : ¬ s.k.toNat < s.reqLen.toNat + 2 := by omega
  have h3 : s.k.toNat ≠ s.reqLen.toNat + 2 := by omega
  simp only [txByte, h0, h1, h2, h3, if_false]

/-! Receiving -/

theorem rxStep_noAnswer {s : State} (h : s.portReads = []) : rxStep s = s := by
  simp [rxStep, portRead_none h]

theorem rxStep_byte {s : State} {b : Byte} {rest : List ReadAnswer}
    (h : s.portReads = .byte b :: rest) :
    rxStep s = onByte b
      { s with portReads := rest, portLog := s.portLog ++ [.read (readWindow s) (.byte b)] } := by
  simp [rxStep, portRead_some h]

theorem rxStep_noByte {s : State} {rest : List ReadAnswer} (h : s.portReads = .noByte :: rest) :
    rxStep s = classify
      { s with portReads := rest, portLog := s.portLog ++ [.read (readWindow s) .noByte] } := by
  simp [rxStep, portRead_some h]

theorem rxStep_xerr {s : State} {e : Half} {rest : List ReadAnswer}
    (h : s.portReads = .xerr e :: rest) :
    rxStep s = finish (.transport e)
      { s with portReads := rest, portLog := s.portLog ++ [.read (readWindow s) (.xerr e)] } := by
  simp [rxStep, portRead_some h]

theorem onByte_tooLong {s : State} (b : Byte) (h : 255 < s.i.toNat) :
    onByte b s = finish .badFrame s := by
  have h' : Config.maxFrame ≤ s.i.toNat := h
  simp [onByte, h']

theorem onByte_counted {s : State} (b : Byte) (h : s.i.toNat ≤ 255) :
    onByte b s =
      { storeByte b (excAfter s b) s with
        frCrc := fold s.frCrc b
        exc := excAfter s b
        bad := badAfter s b
        i := s.i + 1
        fsm := .receiving } := by
  have h' : ¬ Config.maxFrame ≤ s.i.toNat := by simp only [Config.maxFrame]; omega
  simp [onByte, h']

/-- Storing a byte changes nothing but `EXC_CODE` and the buffer RAM. -/
theorem storeByte_state (b : Byte) (exc : Bool) (s : State) :
    storeByte b exc s =
      { s with
        excCode := (storeByte b exc s).excCode
        buf := (storeByte b exc s).buf } := by
  unfold storeByte
  split_ifs <;> rfl

theorem storeByte_header {b : Byte} {exc : Bool} {s : State} (h : s.i.toNat < 2) :
    storeByte b exc s = s := by simp [storeByte, h]

theorem storeByte_exception {b : Byte} {s : State} (h : 2 ≤ s.i.toNat) :
    storeByte b true s = { s with excCode := if s.i.toNat = 2 then b else s.excCode } := by
  have h' : ¬ s.i.toNat < 2 := by omega
  by_cases e : s.i.toNat = 2 <;> simp [storeByte, e, h']

theorem storeByte_payload {b : Byte} {s : State} (h : 2 ≤ s.i.toNat)
    (hl : s.i.toNat < 2 + s.rspLen.toNat) :
    storeByte b false s = memWrite (s.rspBase + BitVec.ofNat 8 (s.i.toNat - 2)) b s := by
  have h' : ¬ s.i.toNat < 2 := by omega
  simp [storeByte, h', hl, regionAddr]

theorem storeByte_beyond {b : Byte} {s : State} (hl : 2 + s.rspLen.toNat ≤ s.i.toNat) :
    storeByte b false s = s := by
  have h' : ¬ s.i.toNat < 2 + s.rspLen.toNat := by omega
  simp [storeByte, h']

/-- The flags after a byte of index 2 or more. -/
theorem excAfter_later {s : State} {b : Byte} (h : 2 ≤ s.i.toNat) : excAfter s b = s.exc := by
  have h1 : s.i.toNat ≠ 1 := by omega
  simp [excAfter, h1]

theorem badAfter_later {s : State} {b : Byte} (h : 2 ≤ s.i.toNat) :
    badAfter s b = (s.bad || (!s.exc && decide (4 + s.rspLen.toNat ≤ s.i.toNat))) := by
  have h0 : s.i.toNat ≠ 0 := by omega
  have h1 : s.i.toNat ≠ 1 := by omega
  simp [badAfter, wrongSlave, wrongFunction, overrun, excAfter_later h, h0, h1]

/-- An outcome of a complete frame is never a transport error. -/
theorem classification_err (s : State) : (classification s).err = 0 := by
  unfold classification
  split_ifs <;> rfl

/-- Ending a transaction always latches an outcome. -/
theorem kind_ne_none (e : Ending) : e.kind ≠ .none := by cases e <;> simp [Ending.kind]

/-! Every ENGINE step -/

/-- What an ENGINE step can do: nothing, a write with its answer, or a read with its answer. -/
theorem engineStep_cases (s : State) :
    engineStep s = s ∨
    (∃ rest, s.fsm = .sending ∧ s.portWrites = .ok :: rest ∧
      engineStep s = txAccepted (txByte s).1
        { s with
          portWrites := rest
          portLog := s.portLog ++ [.write (txByte s).1 .ok]
          draws := (txByte s).2.draws }) ∨
    (∃ e rest, s.fsm = .sending ∧ s.portWrites = .xerr e :: rest ∧
      engineStep s = finish (.transport e)
        { s with
          portWrites := rest
          portLog := s.portLog ++ [.write (txByte s).1 (.xerr e)]
          draws := (txByte s).2.draws }) ∨
    (∃ b rest, (s.fsm = .waitFirst ∨ s.fsm = .receiving) ∧ s.portReads = .byte b :: rest ∧
      engineStep s = onByte b
        { s with portReads := rest, portLog := s.portLog ++ [.read (readWindow s) (.byte b)] }) ∨
    (∃ rest, (s.fsm = .waitFirst ∨ s.fsm = .receiving) ∧ s.portReads = .noByte :: rest ∧
      engineStep s = classify
        { s with portReads := rest, portLog := s.portLog ++ [.read (readWindow s) .noByte] }) ∨
    (∃ e rest, (s.fsm = .waitFirst ∨ s.fsm = .receiving) ∧ s.portReads = .xerr e :: rest ∧
      engineStep s = finish (.transport e)
        { s with portReads := rest, portLog := s.portLog ++ [.read (readWindow s) (.xerr e)] }) := by
  by_cases hi : s.fsm = .idle
  · exact .inl (engineStep_idle hi)
  by_cases hs : s.fsm = .sending
  · rw [engineStep_sending hs]
    cases hw : s.portWrites with
    | nil => exact .inl (txStep_noAnswer hw)
    | cons a rest =>
      cases a with
      | ok => exact .inr (.inl ⟨rest, hs, rfl, txStep_ok hw⟩)
      | xerr e => exact .inr (.inr (.inl ⟨e, rest, hs, rfl, txStep_xerr hw⟩))
  have hr : s.fsm = .waitFirst ∨ s.fsm = .receiving := by
    cases h : s.fsm <;> simp [h] at hi hs ⊢
  rw [engineStep_reading hr]
  cases hp : s.portReads with
  | nil => exact .inl (rxStep_noAnswer hp)
  | cons a rest =>
    cases a with
    | byte b => exact .inr (.inr (.inr (.inl ⟨b, rest, hr, rfl, rxStep_byte hp⟩)))
    | noByte => exact .inr (.inr (.inr (.inr (.inl ⟨rest, hr, rfl, rxStep_noByte hp⟩))))
    | xerr e => exact .inr (.inr (.inr (.inr (.inr ⟨e, rest, hr, rfl, rxStep_xerr hp⟩))))

end Sys2Proof.Machine
end

