-- ==== Sys2Proof/Laws/PerInstr.lean ====
section
/-! SUPPORT. What holds of every command as syntax, one lemma per constructor. -/

namespace Sys2Proof.Laws.EncodingFitsFormat

open Sys2Proof.Safety

/-- The word of a command carries its row's opcode and has 0 in every reserved bit of that row (30_encoding.md R68, R70). -/
def Statement (i : Instr) : Prop :=
  fieldOf 28 4 (encode i) = i.opcode ∧ encode i &&& resMask i.opcode.toNat = 0

theorem crcInit : Statement .crcInit := ⟨by decide, by decide⟩

theorem crcFold (b : Byte) : Statement (.crcFold b) := by
  constructor
  · unfold encode fieldOf; ext n hn; simp [Instr.opcode]; interval_cases n <;> simp
  · change _ &&& 0x0FFFFF00#32 = 0#32
    unfold encode; ext n hn; simp; interval_cases n <;> simp

theorem crcFoldr (base : Byte) (len : Index) : Statement (.crcFoldr base len) := by
  constructor
  · unfold encode fieldOf; ext n hn; simp [Instr.opcode]; interval_cases n <;> simp
  · change _ &&& 0x0E0000FF#32 = 0#32
    unfold encode; ext n hn; simp; interval_cases n <;> simp

theorem crcRead : Statement .crcRead := ⟨by decide, by decide⟩

theorem bufWr (addr data : Byte) : Statement (.bufWr addr data) := by
  constructor
  · unfold encode fieldOf; ext n hn; simp [Instr.opcode]; interval_cases n <;> simp
  · change _ &&& 0x0FFF0000#32 = 0#32
    unfold encode; ext n hn; simp; interval_cases n <;> simp

theorem bufRd (addr : Byte) : Statement (.bufRd addr) := by
  constructor
  · unfold encode fieldOf; ext n hn; simp [Instr.opcode]; interval_cases n <;> simp
  · change _ &&& 0x0FFF00FF#32 = 0#32
    unfold encode; ext n hn; simp; interval_cases n <;> simp

theorem frmAddr (slave func : Byte) : Statement (.frmAddr slave func) := by
  constructor
  · unfold encode fieldOf; ext n hn; simp [Instr.opcode]; interval_cases n <;> simp
  · change _ &&& 0x0FFF0000#32 = 0#32
    unfold encode; ext n hn; simp; interval_cases n <;> simp

theorem frmTmo (tmo : Half) : Statement (.frmTmo tmo) := by
  constructor
  · unfold encode fieldOf; ext n hn; simp [Instr.opcode]; interval_cases n <;> simp
  · change _ &&& 0x0FFF0000#32 = 0#32
    unfold encode; ext n hn; simp; interval_cases n <;> simp

theorem frmReq (base len : Byte) : Statement (.frmReq base len) := by
  constructor
  · unfold encode fieldOf; ext n hn; simp [Instr.opcode]; interval_cases n <;> simp
  · change _ &&& 0x0FFF0000#32 = 0#32
    unfold encode; ext n hn; simp; interval_cases n <;> simp

theorem frmRsp (base len : Byte) : Statement (.frmRsp base len) := by
  constructor
  · unfold encode fieldOf; ext n hn; simp [Instr.opcode]; interval_cases n <;> simp
  · change _ &&& 0x0FFF0000#32 = 0#32
    unfold encode; ext n hn; simp; interval_cases n <;> simp

theorem frmGo : Statement .frmGo := ⟨by decide, by decide⟩

theorem frmStat : Statement .frmStat := ⟨by decide, by decide⟩

theorem frmXerr : Statement .frmXerr := ⟨by decide, by decide⟩

end Sys2Proof.Laws.EncodingFitsFormat
end

