-- ==== Sys2Proof/Laws/Step.lean ====
section
/-! SUPPORT. What a step can do, by the oldest pending input; and what each command's meaning answers. -/

namespace Sys2Proof.Machine

theorem step_nothingPending {s : State} (h : s.inputs = []) : step s = .next (engineStep s) := by
  simp [step, takeTurn, h]

theorem step_engineTurn {s : State} {rest : List Input} (h : s.inputs = .engineTurn :: rest) :
    step s = .next (engineStep { s with inputs := rest }) := by
  simp [step, takeTurn, h, takeInput]

theorem step_reset {s : State} {rest : List Input} (h : s.inputs = .reset :: rest) :
    step s = .next (resetBlock { s with inputs := rest }) := by
  simp [step, takeTurn, h, takeInput]

theorem step_command {s : State} {cmd : Word} {rest : List Input} (h : s.inputs = .command cmd :: rest) :
    step s = hostStep cmd { s with inputs := rest } := by
  simp [step, takeTurn, h, takeInput]

theorem hostStep_illegal {cmd : Word} {e : Illegal} (h : decode cmd = .error e) (s : State) :
    hostStep cmd s = .next (respond .illegal 0 s) := by
  simp [hostStep, h]

theorem hostStep_command {cmd : Word} {i : Instr} (h : decode cmd = .ok i) (s : State) :
    hostStep cmd s = exec i s := by
  simp [hostStep, h]

/-- What each command does to a state that accepts it. -/
def effectOf : Instr → State → State
  | .crcInit, s => respond .ok 0 { s with crcAcc := Config.crcInit }
  | .crcFold b, s => respond .ok 0 { s with crcAcc := fold s.crcAcc b }
  | .crcFoldr base len, s => foldrEffect base len s
  | .crcRead, s => respond .ok (crcReadWord s.crcAcc) s
  | .bufWr addr data, s => respond .ok 0 (memWrite addr data s)
  | .bufRd addr, s => bufRdEffect addr s
  | .frmAddr slave func, s => respond .ok 0 { s with slave := slave, func := func }
  | .frmTmo tmo, s => respond .ok 0 { s with timeout := tmo }
  | .frmReq base len, s => respond .ok 0 { s with reqBase := base, reqLen := len }
  | .frmRsp base len, s => respond .ok 0 { s with rspBase := base, rspLen := len }
  | .frmGo, s => respond .ok 0 (startTransaction s)
  | .frmStat, s => respond .ok (statWord s) s
  | .frmXerr, s => respond .ok (s.xerr.setWidth 32) s

/-- In IDLE every command has its effect. -/
theorem exec_idle (i : Instr) {s : State} (h : s.fsm = .idle) : exec i s = .next (effectOf i s) := by
  cases i <;> simp only [exec, effectOf, execCrcInit, execCrcFold, execCrcFoldr, execCrcRead, execBufWr,
    execBufRd, execFrmAddr, execFrmTmo, execFrmReq, execFrmRsp, execFrmGo, execFrmStat, execFrmXerr,
    unlessBusy_idle h]

/-- During a transaction a command is answered BUSY, or is one of the five that never are and has its effect. -/
theorem exec_running (i : Instr) {s : State} (h : s.fsm ≠ .idle) :
    exec i s = .next { s with response := some { ack := .busy, rdata := 0 } } ∨
    (exec i s = .next (effectOf i s) ∧
      (i = .crcInit ∨ (∃ b, i = .crcFold b) ∨ i = .crcRead ∨ i = .frmStat ∨ i = .frmXerr)) := by
  cases i <;> simp [exec, effectOf, execCrcInit, execCrcFold, execCrcFoldr, execCrcRead, execBufWr,
    execBufRd, execFrmAddr, execFrmTmo, execFrmReq, execFrmRsp, execFrmGo, execFrmStat, execFrmXerr,
    unlessBusy_running h]

/-- Every command answers a next state. -/
theorem exec_next (i : Instr) (s : State) : ∃ t, exec i s = .next t := by
  cases i <;> exact ⟨_, rfl⟩

/-- What a step can do: the ENGINE moves, the block is reset, a word is rejected, or a command runs. -/
theorem step_cases {s t : State} (h : step s = .next t) :
    (s.inputs = [] ∧ t = engineStep s) ∨
    (∃ rest, s.inputs = .engineTurn :: rest ∧ t = engineStep { s with inputs := rest }) ∨
    (∃ rest, s.inputs = .reset :: rest ∧ t = resetBlock { s with inputs := rest }) ∨
    (∃ cmd rest e, s.inputs = .command cmd :: rest ∧ decode cmd = .error e ∧
      t = respond .illegal 0 { s with inputs := rest }) ∨
    (∃ cmd rest i, s.inputs = .command cmd :: rest ∧ decode cmd = .ok i ∧
      exec i { s with inputs := rest } = .next t) := by
  cases hi : s.inputs with
  | nil =>
    rw [step_nothingPending hi] at h
    exact .inl ⟨rfl, (Host.Outcome.next.inj h).symm⟩
  | cons x rest =>
    cases x with
    | engineTurn =>
      rw [step_engineTurn hi] at h
      exact .inr (.inl ⟨rest, rfl, (Host.Outcome.next.inj h).symm⟩)
    | reset =>
      rw [step_reset hi] at h
      exact .inr (.inr (.inl ⟨rest, rfl, (Host.Outcome.next.inj h).symm⟩))
    | command cmd =>
      rw [step_command hi] at h
      cases hd : decode cmd with
      | error e =>
        rw [hostStep_illegal hd] at h
        exact .inr (.inr (.inr (.inl ⟨cmd, rest, e, rfl, hd, (Host.Outcome.next.inj h).symm⟩)))
      | ok i =>
        rw [hostStep_command hd] at h
        exact .inr (.inr (.inr (.inr ⟨cmd, rest, i, rfl, hd, h⟩)))

end Sys2Proof.Machine
end

