-- ==== Sys2Proof/Laws/Safety.lean ====
section
/-! SUPPORT. The parts of the invariant: what they depend on, and how one byte moves them on. -/

namespace Sys2Proof.Safety

open Sys2Proof.Machine

theorem lastN_length {α} (n : Nat) (xs : List α) (h : n ≤ xs.length) : (lastN n xs).length = n := by
  simp [lastN]; omega

theorem lastN_zero {α} (xs : List α) : lastN 0 xs = [] := by simp [lastN]

theorem lastN_concat {α} (n : Nat) (xs : List α) (x : α) : lastN (n + 1) (xs ++ [x]) = lastN n xs ++ [x] := by
  simp only [lastN, List.length_append, List.length_singleton, Nat.add_sub_add_right]
  exact List.drop_append_of_le_length (by omega)

theorem take_succ_of {α} (l : List α) (n : Nat) (x : α) (h : l[n]? = some x) :
    l.take (n + 1) = l.take n ++ [x] := by
  rw [List.take_add_one, h]; rfl

/-- The progress of sending depends only on these fields. -/
theorem SendProgress.congr {s t : State} {xs : List Byte} (h : SendProgress s xs)
    (e1 : t.k = s.k) (e2 : t.reqLen = s.reqLen) (e3 : t.frCrc = s.frCrc) (e4 : t.buf = s.buf)
    (e5 : t.reqBase = s.reqBase) (e6 : t.slave = s.slave) (e7 : t.func = s.func) :
    SendProgress t xs := by
  obtain ⟨a, b, c, d⟩ := h
  exact ⟨by rw [e1]; exact a, by rw [e1, e2]; exact b, by rw [e3, e2]; exact c,
    by rw [e1, e2, e4, e5, e6, e7]; exact d⟩

/-- The progress of reception depends only on these fields. -/
theorem ReceiveProgress.congr {s t : State} {xs : List Byte} (h : ReceiveProgress s xs)
    (e1 : t.i = s.i) (e2 : t.rspLen = s.rspLen) (e3 : t.frCrc = s.frCrc) (e4 : t.buf = s.buf)
    (e5 : t.rspBase = s.rspBase) (e6 : t.slave = s.slave) (e7 : t.func = s.func)
    (e8 : t.exc = s.exc) (e9 : t.bad = s.bad) (e10 : t.excCode = s.excCode) :
    ReceiveProgress t xs := by
  obtain ⟨a, b, c, d, e, f, g⟩ := h
  exact ⟨by rw [e1]; exact a, by rw [e1]; exact b, by rw [e3]; exact c, by rw [e8, e7]; exact d,
    by rw [e9, e6, e7, e2]; exact e, by rw [e10, e7]; exact f, by rw [e7, e2, e4, e5]; exact g⟩

/-- The agreement of the results depends only on these fields. -/
theorem ResultsAgree.congr {s t : State} (h : ResultsAgree s)
    (e1 : t.resKind = s.resKind) (e2 : t.resCode = s.resCode) (e3 : t.resLen = s.resLen)
    (e4 : t.xerr = s.xerr) (e5 : t.excCode = s.excCode) : ResultsAgree t := by
  obtain ⟨a, b, c, d⟩ := h
  exact ⟨by rw [e1, e3]; exact a, by rw [e1, e3]; exact b, by rw [e1, e4]; exact c,
    by rw [e1, e2, e5]; exact d⟩

/-- The invariant depends only on these fields, and in IDLE not on the configuration registers. -/
theorem Inv.congr {s t : State} (h : Inv s)
    (hb : t.buf = s.buf) (h1 : t.resKind = s.resKind) (h2 : t.resCode = s.resCode)
    (h3 : t.resLen = s.resLen) (h4 : t.xerr = s.xerr) (h5 : t.excCode = s.excCode)
    (h6 : t.fsm = s.fsm) (h7 : t.k = s.k) (h8 : t.i = s.i) (h9 : t.frCrc = s.frCrc)
    (h10 : t.bad = s.bad) (h11 : t.exc = s.exc) (h12 : t.portLog = s.portLog)
    (hc : s.fsm ≠ .idle → t.slave = s.slave ∧ t.func = s.func ∧ t.timeout = s.timeout ∧
      t.reqBase = s.reqBase ∧ t.reqLen = s.reqLen ∧ t.rspBase = s.rspBase ∧ t.rspLen = s.rspLen) :
    Inv t := by
  refine ⟨by rw [hb]; exact h.bufCanonical, h.results.congr h1 h2 h3 h4 h5,
    by rw [h6, h1]; exact h.noOutcomeYet, ?_, by rw [h6, h8]; exact h.waiting,
    by rw [h6, h8]; exact h.receivingSome, ?_⟩
  · intro hf; rw [h6] at hf
    obtain ⟨c1, c2, c3, c4, c5, c6, c7⟩ := hc (by simp [hf])
    rw [State.sent, h12, h7]
    exact (h.sending hf).congr h7 c5 h9 hb c4 c1 c2
  · intro hf; rw [h6] at hf
    obtain ⟨c1, c2, c3, c4, c5, c6, c7⟩ := hc (by rcases hf with h | h <;> simp [h])
    rw [State.received, h12, h8, c3]
    obtain ⟨ha, hr⟩ := h.reception hf
    exact ⟨ha, hr.congr h8 c7 h9 hb c6 c1 c2 h11 h10 h5⟩

/-- A transaction that ends leaves the invariant, whatever the state was. -/
theorem inv_finish {s : State} (hb : s.buf.wf = true) (e : Ending)
    (hl : ∀ m, e = .ok m → m.toNat ≤ 252) : Inv (finish e s) := by
  refine ⟨hb, ⟨?_, ?_, ?_, ?_⟩, ?_, ?_, ?_, ?_, ?_⟩ <;> cases e <;>
    simp [Ending.kind, Ending.code, Ending.len, Ending.err]
  exact hl _ rfl

/-- So does one that starts. -/
theorem inv_start {s : State} (hb : s.buf.wf = true) : Inv (startTransaction s) := by
  refine ⟨hb, ⟨?_, ?_, ?_, ?_⟩, ?_, ?_, ?_, ?_, ?_⟩ <;> simp
  refine ⟨?_, ?_, ?_, ?_⟩ <;> simp [lastN_zero, Config.crcInit]
  refine ⟨(List.range s.reqLen.toNat).map fun j =>
    (Memory.read s.buf (s.reqBase + BitVec.ofNat 8 j)).getD 0, by simp, ?_⟩
  intro j v hj hv
  simp at hj
  simp [hj, hv]

/-- Byte `j` of the payload in a request frame. -/
theorem requestFrame_getElem? (sl fn : Byte) (p : List Byte) (j : Nat) (h : j < p.length) :
    (requestFrame sl fn p)[j + 2]? = p[j]? := by
  simp only [requestFrame, withCrc, List.cons_append, List.getElem?_cons_succ]
  exact List.getElem?_append_left h

/-- One more byte accepted. -/
theorem SendProgress.concat {s : State} {xs : List Byte} (h : SendProgress s xs)
    (hk : s.k.toNat < s.reqLen.toNat + 3) (t : State) (e1 : t.k = s.k + 1) (e2 : t.reqLen = s.reqLen)
    (e3 : t.frCrc = if s.k.toNat < s.reqLen.toNat + 2 then fold s.frCrc (txByte s).1 else s.frCrc)
    (e4 : t.buf = s.buf) (e5 : t.reqBase = s.reqBase) (e6 : t.slave = s.slave)
    (e7 : t.func = s.func) : SendProgress t (xs ++ [(txByte s).1]) := by
  obtain ⟨hc, hb, hf, p, hp, hag, hx⟩ := h
  have hL := s.reqLen.isLt
  have hk1 : t.k.toNat = s.k.toNat + 1 := by rw [e1]; simp [BitVec.toNat_add]; omega
  refine ⟨by simp [hk1, hc], by rw [hk1, e2]; omega, ?_, ?_⟩
  · rw [e3, e2]
    split
    · rw [hf, List.take_of_length_le (by omega), List.take_of_length_le (by simp; omega), crc_concat]
    · rw [hf, List.take_append_of_le_length (by omega)]
  · rw [hk1, e2, e4, e5, e6, e7]
    by_cases h0 : s.k.toNat = 0
    · refine ⟨p, hp, hag, ?_⟩
      rw [take_succ_of (x := s.slave) _ _ (by simp [h0, requestFrame, withCrc]), ← hx,
        txByte_slave h0]
    by_cases h1 : s.k.toNat = 1
    · refine ⟨p, hp, hag, ?_⟩
      rw [take_succ_of (x := s.func) _ _ (by simp [h1, requestFrame, withCrc]), ← hx, txByte_func h1]
    obtain ⟨j, hj⟩ : ∃ j, s.k.toNat = j + 2 := ⟨s.k.toNat - 2, by omega⟩
    by_cases h2 : j < s.reqLen.toNat
    · refine ⟨p.set j (txByte s).1, by simp [hp], ?_, ?_⟩
      · intro j' v hj' hv
        rw [List.length_set] at hj'
        by_cases e : j = j'
        · subst e
          rw [List.getElem?_set_self hj', txByte_payload hj h2, memRead_agrees hv]
        · rw [List.getElem?_set_ne e]; exact hag j' v hj' hv
      · rw [take_succ_of (x := (txByte s).1) _ _ (by
          rw [hj, requestFrame_getElem? _ _ _ _ (by simp; omega), List.getElem?_set_self (by omega)])]
        congr 1
        rw [hx, hj]
        simp only [requestFrame, withCrc, List.cons_append, List.take_succ_cons]
        rw [List.take_append_of_le_length (by omega),
          List.take_append_of_le_length (by simp; omega), List.take_set_of_le (by omega)]
    · have hjL : j = s.reqLen.toNat := by omega
      refine ⟨p, hp, hag, ?_⟩
      have hbody : xs = s.slave :: s.func :: p := by
        rw [hx, hj]; simp [requestFrame, withCrc, hjL, ← hp]
      have hcrc : s.frCrc = crc (s.slave :: s.func :: p) := by
        rw [hf, List.take_of_length_le (by omega), hbody]
      rw [take_succ_of (x := (txByte s).1) _ _ ?_, ← hx]
      rw [txByte_crcLow (by omega), hcrc]
      simp [requestFrame, withCrc, hj, hjL, ← hp]

/-- The exception flag of a frame that grows by a byte. -/
theorem frameExc_concat (fn : Byte) (xs : List Byte) (b : Byte) :
    frameExc fn (xs ++ [b]) = if xs.length = 1 then decide (b = fn ||| 0x80) else frameExc fn xs := by
  unfold frameExc
  rcases Nat.lt_trichotomy xs.length 1 with h | h | h
  · rw [if_neg (by omega)]
    have : xs = [] := by cases xs; rfl; simp at h
    subst this; simp
  · rw [if_pos h, List.getElem?_append_right (by omega)]; simp [h]
  · rw [if_neg (by omega), List.getElem?_append_left h]

/-- The BAD flag of a frame that grows by a byte. -/
theorem frameBad_concat (sl fn rl : Byte) (xs : List Byte) (b : Byte) :
    frameBad sl fn rl (xs ++ [b]) =
      (frameBad sl fn rl xs || (decide (xs.length = 0) && decide (b ≠ sl))
        || (decide (xs.length = 1) && decide (b ≠ fn ||| 0x80) && decide (b ≠ fn))
        || (!frameExc fn (xs ++ [b]) && decide (4 + rl.toNat ≤ xs.length))) := by
  unfold frameBad
  rw [frameExc_concat]
  rcases Nat.lt_trichotomy xs.length 1 with h | h | h
  · have : xs = [] := by cases xs; rfl; simp at h
    subst this; simp [frameExc]
  · obtain ⟨x, rfl⟩ : ∃ x, xs = [x] := by
      cases xs with
      | nil => simp at h
      | cons x xs => cases xs; exact ⟨x, rfl⟩; simp at h
    simp [frameExc]
    have h1 : ¬ (rl.toNat + 4 < 2) := by omega
    have h2 : ¬ (rl.toNat + 4 < 1) := by omega
    have h3 : ¬ (4 + rl.toNat ≤ 1) := by omega
    simp [h1, h2, h3]
  · have h0 : xs.length ≠ 0 := by omega
    have h1 : xs.length ≠ 1 := by omega
    rw [List.getElem?_append_left (by omega), List.getElem?_append_left (by omega)]
    simp [h0, h1]
    have e2 : 2 ≤ xs.length := h
    have e1 : 1 ≤ xs.length := by omega
    have e3 : 1 ≤ xs.length + 1 := by omega
    by_cases hy : rl.toNat + 4 ≤ xs.length
    · have hz : 4 + rl.toNat ≤ xs.length := by omega
      by_cases hx : rl.toNat + 4 < xs.length <;> simp [hx, hy, hz, e1, e2]
    · have hz : ¬ 4 + rl.toNat ≤ xs.length := by omega
      have hx : ¬ rl.toNat + 4 < xs.length := by omega
      simp [hx, hy, hz, e1, e2]

/-- Storing a byte keeps the canonical form. -/
theorem storeByte_wf (b : Byte) (e : Bool) (s : State) (h : s.buf.wf = true) :
    (storeByte b e s).buf.wf = true := by
  unfold storeByte
  split_ifs
  · exact h
  · exact h
  · exact h
  · exact wf_write _ _ _ h
  · exact h

/-- One more byte received. -/
theorem ReceiveProgress.concat {t : State} {xs : List Byte} {b : Byte} (h : ReceiveProgress t xs)
    (hi : t.i.toNat ≤ 255) :
    ReceiveProgress
      { storeByte b (excAfter t b) t with
        frCrc := fold t.frCrc b
        exc := excAfter t b
        bad := badAfter t b
        i := t.i + 1
        fsm := .receiving } (xs ++ [b]) := by
  obtain ⟨hc, hb, hf, he, hbad, hcode, hst⟩ := h
  have hi1 : (t.i + 1).toNat = t.i.toNat + 1 := by simp [BitVec.toNat_add]; omega
  have hexc : excAfter t b = frameExc t.func (xs ++ [b]) := by
    rw [frameExc_concat, excAfter, he, hc]
    by_cases h1 : t.i.toNat = 1
    · have : frameExc t.func xs = false := by
        simp [frameExc, List.getElem?_eq_none (show xs.length ≤ 1 by omega)]
      simp [h1, this, exceptionMarker, Config.excFlag]
      rfl
    · simp [h1]
  refine ⟨?_, ?_, ?_, ?_, ?_, ?_, ?_⟩
  · show (xs ++ [b]).length = (t.i + 1).toNat
    rw [hi1]; simp [hc]
  · show (t.i + 1).toNat ≤ 256; omega
  · show fold t.frCrc b = _; rw [crc_concat, hf]
  · show excAfter t b = frameExc (storeByte b _ t).func _
    rw [storeByte_state]; exact hexc
  · show badAfter t b =
      frameBad (storeByte b _ t).slave (storeByte b _ t).func (storeByte b _ t).rspLen _
    rw [storeByte_state]
    show badAfter t b = frameBad t.slave t.func t.rspLen _
    rw [frameBad_concat, ← hexc, ← hbad, hc]; rfl
  · show (storeByte b _ t).excCode = if frameExc (storeByte b _ t).func _ then _ else _
    rw [show (storeByte b (excAfter t b) t).func = t.func by rw [storeByte_state], ← hexc]
    by_cases h2 : t.i.toNat < 2
    · rw [storeByte_header h2, hcode]
      have a1 : xs.getD 2 0 = 0 := by
        simp [List.getD, List.getElem?_eq_none (show xs.length ≤ 2 by omega)]
      have a2 : (xs ++ [b]).getD 2 0 = 0 := by
        simp [List.getD, List.getElem?_eq_none (show (xs ++ [b]).length ≤ 2 by simp; omega)]
      rw [a1, a2]; simp
    · have hx : excAfter t b = t.exc := excAfter_later (by omega)
      rw [hx]
      cases hxx : t.exc with
      | true =>
        rw [storeByte_exception (by omega)]
        simp only [if_true]
        rw [he] at hxx
        rw [hcode, hxx]
        by_cases h3 : t.i.toNat = 2
        · simp [h3, List.getD, List.getElem?_append_right (show xs.length ≤ 2 by omega), hc]
        · simp only [List.getD]; rw [if_neg h3, List.getElem?_append_left (by omega)]; rfl
      | false =>
        rw [he] at hxx
        have : (storeByte b false t).excCode = t.excCode := by
          unfold storeByte; split_ifs <;> first | rfl | contradiction
        rw [this, hcode, hxx]
        rfl
  · rw [show ({ storeByte b (excAfter t b) t with
        frCrc := fold t.frCrc b
        exc := excAfter t b
        bad := badAfter t b
        i := t.i + 1
        fsm := Fsm.receiving } : State).func = t.func by rw [storeByte_state], ← hexc]
    intro hx j v hj hv
    change j < (storeByte b _ t).rspLen.toNat at hj
    show Memory.read (storeByte b _ t).buf ((storeByte b _ t).rspBase + _) = _
    rw [show (storeByte b (excAfter t b) t).rspLen = t.rspLen by rw [storeByte_state]] at hj
    rw [show (storeByte b (excAfter t b) t).rspBase = t.rspBase by rw [storeByte_state]]
    rw [hx]
    have hlt : j + 2 < (xs ++ [b]).length := by
      by_contra hcon
      rw [List.getElem?_eq_none (by omega)] at hv
      simp at hv
    simp at hlt
    have h2 : ¬ t.i.toNat < 2 := by omega
    have hx' : frameExc t.func xs = false := by
      rw [← he, ← excAfter_later (b := b) (by omega)]
      exact hx
    have hl := t.rspLen.isLt
    by_cases hs : t.i.toNat < 2 + t.rspLen.toNat
    · rw [storeByte_payload (by omega) hs]
      by_cases hj2 : j + 2 = t.i.toNat
      · rw [List.getElem?_append_right (by omega)] at hv
        simp [show j + 2 - xs.length = 0 by omega] at hv
        rw [show t.i.toNat - 2 = j by omega, ← hv]; simp
      · rw [List.getElem?_append_left (by omega)] at hv
        simp only [memWrite_buf]
        rw [read_write_of_ne _ _ _ (regionAddr_ne (by omega) (by omega) (by omega))]
        exact hst hx' j v hj hv
    · rw [storeByte_beyond (by omega)]
      rw [List.getElem?_append_left (by omega)] at hv
      exact hst hx' j v hj hv

end Sys2Proof.Safety
end

