-- ==== Sys2Proof/Tests/Slice0.lean ====
section
/-! SUPPORT. Tests of the model, each about one decoding or one step, with the source of the expected result; then one
witness for each statement that has hypotheses. Expected results come from 95_test_vectors.md unless a comment says otherwise. -/

namespace Sys2Proof.Tests

open Sys2Proof.Machine Sys2Proof.Safety

/-- The state a step answers. -/
def answered : Result → Option State
  | .next t => some t
  | .fault _ => none
  | .refused _ => none

/-- The state right after reset with these things pending outside. -/
def pending (xs : List Input) : State := { State.reset with inputs := xs }

/-- One HOST step with word `w` from `s`, and what it answers. -/
def host (w : Word) (s : State) : Option State := answered (step { s with inputs := [.command w] })

/-- `s` with the last answer `a`, `d`. -/
def saying (a : Ack) (d : Word) (s : State) : State := { s with response := some { ack := a, rdata := d } }

/-- A block in each running state (premises of L2.2 to L2.4, not the result of a run). -/
def sending : State := { State.reset with fsm := .sending }
def waiting : State := { State.reset with fsm := .waitFirst, timeout := 1000 }
def receiving : State := { State.reset with fsm := .receiving, timeout := 1000, i := 1 }

/-- The configuration of the L1.2 exchange, with its request payload in BUF. -/
def configured : State :=
  { State.reset with
    slave := 0x11, func := 0x03, timeout := 1000, reqBase := 0x00, reqLen := 4, rspBase := 0x40, rspLen := 3
    buf := [(0, 0x00), (1, 0x6B), (2, 0x00), (3, 0x01)] }

/-! ## Well-formedness -/

theorem test_wf_foldr_256 : (Instr.crcFoldr 0xFF 256).wf = true := by decide
theorem test_wf_refuses_foldr_257 : (Instr.crcFoldr 0x00 257).wf = false := by decide
theorem test_wf_refuses_foldr_511 : (Instr.crcFoldr 0x00 511).wf = false := by decide

/-! ## Decoding: words written out from 30_encoding.md R68 (L2.5, L2.2 to L2.4) -/

theorem test_decode_crcInit : decode 0b00010000000000000000000000000000 = .ok .crcInit := by decide
theorem test_decode_crcFold : decode 0b00100000000000000000000000011010 = .ok (.crcFold 0x1A) := by decide
theorem test_decode_crcFoldr :
    decode 0b00110000111111110001000000000000 = .ok (.crcFoldr 0x10 255) := by decide
theorem test_decode_crcFoldr_256 : decode 0x3100FF00 = .ok (.crcFoldr 0xFF 256) := by decide
theorem test_decode_crcRead : decode 0b01000000000000000000000000000000 = .ok .crcRead := by decide
theorem test_decode_bufWr : decode 0b01010000000000000010000001101011 = .ok (.bufWr 0x20 0x6B) := by decide
theorem test_decode_bufRd : decode 0b01100000000000001111111100000000 = .ok (.bufRd 0xFF) := by decide
theorem test_decode_frmAddr :
    decode 0b01110000000000001111011100000011 = .ok (.frmAddr 0xF7 0x03) := by decide
theorem test_decode_frmTmo : decode 0b10000000000000000000001111101000 = .ok (.frmTmo 1000) := by decide
theorem test_decode_frmReq :
    decode 0b10010000000000001111110011111101 = .ok (.frmReq 0xFC 0xFD) := by decide
theorem test_decode_frmRsp :
    decode 0b10100000000000001111111100000001 = .ok (.frmRsp 0xFF 0x01) := by decide
theorem test_decode_frmGo : decode 0b10110000000000000000000000000000 = .ok .frmGo := by decide
theorem test_decode_frmStat : decode 0b11000000000000000000000000000000 = .ok .frmStat := by decide
theorem test_decode_frmXerr : decode 0b11010000000000000000000000000000 = .ok .frmXerr := by decide

/-- The ILLEGAL words of L2.5. -/
theorem test_decode_illegal :
    ([0x00000000, 0x0FFFFFFF, 0xE0000000, 0xF1234567, 0xFFFFFFFF, 0x10000001, 0x200001FF, 0x31010000,
      0x3000FF01, 0x50100000, 0x6000FF01, 0xA1000000, 0xBFFFFFFF, 0xD0000100] : List Word).all
      (fun w => (decode w).toOption.isNone) = true := by decide

/-- The reasons of 30_encoding.md R71, by name. -/
theorem test_decode_reasons :
    decode 0xE0000000 = .error .reservedOpcode ∧ decode 0x10000001 = .error .reservedBits ∧
    decode 0x31010000 = .error .foldrLength ∧ decode 0x33010000 = .error .reservedBits := by decide

theorem test_table_word : decodeTableWord 32 0x5000206B = some (.bufWr 0x20 0x6B) := by decide
theorem test_fetch_word :
    (answered (step (State.reset.withFetchWord 32 0x5000206B))).map State.buf = some [(0x20, 0x6B)] := by decide

/-! ## Assembler and pseudo-instructions (30_encoding.md R73, R74; L3.1, L3.2) -/

theorem test_assemble_bufWr : (assemble "BUF.WR" [0x20, 0x6B]).map encode = some 0x5000206B := by decide
theorem test_assemble_foldr : (assemble "CRC.FOLDR" [0x80, 5]).map encode = some 0x30058000 := by decide
theorem test_assemble_refuses : assemble "CRC.FOLD" [256] = none ∧ assemble "CRC.FOLDR" [0, 257] = none ∧
    assemble "FRM.TMO" [65536] = none := by decide
theorem test_pseudo_fill :
    (Pseudo.bufFill 0xFF [0x11, 0x22]).expand = [.bufWr 0xFF 0x11, .bufWr 0x00 0x22] := by decide

/-! ## The CRC step (L2.1) -/

theorem test_table_entries : T 0x01 = 0xC0C1 ∧ T 0xEE = 0x4C80 ∧ T 0xFF = 0x4040 ∧ T 0x62 = 0xE981 := by
  decide
theorem test_fold : fold 0x1234 0x56 = 0xE993 ∧ fold 0xFFFF 0x01 = 0x807E ∧ fold 0xA001 0x01 = 0x00A0 := by
  decide
theorem test_foldBits : foldBits 0x1234 0x56 = 0xE993 := by decide
theorem test_crc : crc [0x11, 0x03, 0x00, 0x6B, 0x00, 0x01] = 0x46F7 := by decide

/-! ## Commands (L2.2 to L2.4) -/

theorem test_crcInit_receiving :
    host 0x10000000 { receiving with crcAcc := 0x1234 } = some (saying .ok 0 { receiving with crcAcc := 0xFFFF }) := by
  decide
theorem test_crcFold : host 0x20000011 State.reset = some (saying .ok 0 { State.reset with crcAcc := 0x4C7F }) := by
  decide
theorem test_crcFold_sending :
    host 0x200000FF sending = some (saying .ok 0 { sending with crcAcc := 0x00FF }) := by decide
/-- The range wraps past 0xFF. -/
theorem test_crcFoldr_wraps :
    (host 0x3006FE00 { State.reset with
      buf := [(0, 0x00), (1, 0x6B), (2, 0x00), (3, 0x01), (0xFE, 0x11), (0xFF, 0x03)] }).map State.crcAcc =
      some 0x46F7 := by decide
theorem test_crcFoldr_busy :
    host 0x30061000 { waiting with crcAcc := 0x1234 } = some (saying .busy 0 { waiting with crcAcc := 0x1234 }) := by
  decide
theorem test_crcRead_zero :
    host 0x40000000 { sending with crcAcc := 0x0000 } = some (saying .ok 0x00010000 { sending with crcAcc := 0x0000 }) := by
  decide
theorem test_crcRead_nonzero :
    host 0x40000000 { State.reset with crcAcc := 0x46F7 } =
      some (saying .ok 0x000046F7 { State.reset with crcAcc := 0x46F7 }) := by decide
theorem test_bufWr_replaces :
    host 0x5000402C { State.reset with buf := [(0x40, 0x2B)] } =
      some (saying .ok 0 { State.reset with buf := [(0x40, 0x2C)] }) := by decide
theorem test_bufWr_busy : host 0x5000206B sending = some (saying .busy 0 sending) := by decide
theorem test_bufRd :
    host 0x60004000 { State.reset with buf := [(0x40, 0x2B)] } =
      some (saying .ok 0x0000002B { State.reset with buf := [(0x40, 0x2B)] }) := by decide
theorem test_bufRd_busy : host 0x60004000 receiving = some (saying .busy 0 receiving) := by decide
theorem test_frmAddr :
    host 0x70001103 State.reset = some (saying .ok 0 { State.reset with slave := 0x11, func := 0x03 }) := by decide
theorem test_frmTmo :
    host 0x8000FFFF State.reset = some (saying .ok 0 { State.reset with timeout := 0xFFFF }) := by decide
theorem test_frmTmo_busy : host 0x800003E8 waiting = some (saying .busy 0 waiting) := by decide
theorem test_frmReq :
    host 0x900000FF State.reset = some (saying .ok 0 { State.reset with reqBase := 0x00, reqLen := 255 }) := by decide
theorem test_frmRsp :
    host 0xA0004003 State.reset = some (saying .ok 0 { State.reset with rspBase := 0x40, rspLen := 3 }) := by decide
/-- FRM.GO clears the last outcome. -/
theorem test_frmGo_clears :
    host 0xB0000000 { State.reset with resKind := .transport, resCode := 0x0400, xerr := 0xBEEF } =
      some (saying .ok 0 { State.reset with fsm := .sending }) := by decide
/-- ILLEGAL is checked before BUSY. -/
theorem test_frmGo_illegal_first : host 0xB0000001 sending = some (saying .illegal 0 sending) := by decide
theorem test_frmStat_running : (host 0xC0000000 sending).bind State.response = some ⟨.ok, 0x20000000⟩ ∧
    (host 0xC0000000 waiting).bind State.response = some ⟨.ok, 0x40000000⟩ ∧
    (host 0xC0000000 receiving).bind State.response = some ⟨.ok, 0x60000000⟩ := by decide
theorem test_frmStat_ok :
    (host 0xC0000000 { State.reset with resKind := .ok, resLen := 252 }).bind State.response =
      some ⟨.ok, 0x02FC0000⟩ := by decide
theorem test_frmXerr :
    (host 0xD0000000 { State.reset with resKind := .transport, resCode := 0x0400, xerr := 0xBEEF }).bind
      State.response = some ⟨.ok, 0x0000BEEF⟩ := by decide

/-! ## ENGINE steps (L1.2, L1.4, L1.8, L2.6.4, L2.7) -/

/-- The first byte of the L1.2 request, from a configured block that has accepted FRM.GO. -/
theorem test_engine_sends_slave :
    (engineStep { configured with fsm := .sending, portWrites := [.ok] }).portLog = [.write 0x11 .ok] := by decide
/-- The CRC low byte F7 of the L1.2 request, then 46 with reception to follow. -/
theorem test_engine_sends_crc :
    (engineStep { configured with fsm := .sending, k := 6, frCrc := 0x46F7, portWrites := [.ok] }).portLog =
      [.write 0xF7 .ok] ∧
    (engineStep { configured with fsm := .sending, k := 7, frCrc := 0x46F7, portWrites := [.ok] }).fsm =
      .waitFirst := by decide
/-- L2.6.4: a transport error on the CRC high byte. -/
theorem test_engine_write_error :
    (engineStep { configured with fsm := .sending, k := 7, frCrc := 0x46F7, portWrites := [.xerr 0x0001] }).xerr =
      0x0001 := by decide
/-- L1.4: byte 1 is the exception marker, byte 2 the code; nothing is stored. -/
theorem test_engine_exception_code :
    (engineStep { configured with
      fsm := .receiving, i := 1, portReads := [.byte 0x83] }).exc = true ∧
    (engineStep { configured with
      fsm := .receiving, i := 2, exc := true, portReads := [.byte 0x02] }).excCode = 0x02 ∧
    (engineStep { configured with
      fsm := .receiving, i := 2, exc := true, portReads := [.byte 0x02] }).buf = configured.buf := by decide
/-- L1.8: index 5 is not stored, index 7 sets BAD, with RSP_LEN 3. -/
theorem test_engine_overrun :
    (engineStep { configured with fsm := .receiving, i := 5, portReads := [.byte 0x00] }).buf = configured.buf ∧
    (engineStep { configured with fsm := .receiving, i := 6, portReads := [.byte 0xF9] }).bad = false ∧
    (engineStep { configured with fsm := .receiving, i := 7, portReads := [.byte 0xD2] }).bad = true := by decide
/-- L2.7.2 and L2.7.3: a frame of 4 bytes with MIN_FRAME 4 and 5. -/
theorem test_engine_min_frame :
    (engineStep { configured with fsm := .receiving, i := 4, frCrc := 0, portReads := [.noByte] }).resKind = .ok ∧
    (engineStep { configured with
      fsm := .receiving, i := 4, frCrc := 0, portReads := [.noByte]
      params := { idleMs := 2, minFrame := .five } }).resKind = .badFrame := by decide
/-- L2.7.14: test 4 comes before test 5. -/
theorem test_engine_exception_before_bad :
    (engineStep { configured with
      fsm := .receiving, i := 5, frCrc := 0, exc := true, bad := true, portReads := [.noByte] }).resKind =
      .exception := by decide
/-- A port that has not answered leaves the ENGINE waiting (60_exceptions.md R133). -/
theorem test_engine_waits : engineStep configured = configured ∧ engineStep waiting = waiting := by decide

/-! ## Witnesses: concrete inputs that meet the hypotheses of each statement together, clause by clause -/

/-- `cmd` meets the hypotheses of `IllegalWithReservedBits op mask` in the state right after reset. -/
abbrev MeetsIllegal (op : BitVec 4) (mask cmd : Word) : Prop :=
  cmd.extractLsb' 28 4 = op ∧ cmd &&& mask ≠ 0 ∧ (pending [.command cmd]).inputs = [.command cmd]

theorem witness_CrcInitSetsAccumulator :
    MeetsIllegal 0x1 0x0FFFFFFF 0x10000001 ∧ MeetsIllegal 0x1 0x0FFFFFFF 0x18000000 := by decide
theorem witness_CrcFoldFoldsOneByte :
    MeetsIllegal 0x2 0x0FFFFF00 0x20000100 ∧ MeetsIllegal 0x2 0x0FFFFF00 0x28000000 := by decide
theorem witness_CrcFoldrFoldsRange :
    MeetsIllegal 0x3 0x0E0000FF 0x30061001 ∧ MeetsIllegal 0x3 0x0E0000FF 0x32000000 ∧
    ((0x31010000 : Word).extractLsb' 28 4 = 0x3#4 ∧ 256 < ((0x31010000 : Word).extractLsb' 16 9).toNat ∧
      (pending [.command 0x31010000]).inputs = [.command 0x31010000]) ∧
    256 < ((0x31FF0000 : Word).extractLsb' 16 9).toNat ∧ waiting.fsm ≠ .idle ∧
    (0 : Index).toNat ≤ 256 ∧ (256 : Index).toNat ≤ 256 ∧ State.reset.fsm = .idle := by decide
theorem witness_CrcReadReturnsAccumulatorAndZero :
    MeetsIllegal 0x4 0x0FFFFFFF 0x40000001 ∧ MeetsIllegal 0x4 0x0FFFFFFF 0x48000000 := by decide
theorem witness_BufWrWritesOneByte :
    MeetsIllegal 0x5 0x0FFF0000 0x50010000 ∧ MeetsIllegal 0x5 0x0FFF0000 0x58000000 ∧
    sending.fsm ≠ .idle ∧ State.reset.fsm = .idle ∧ (0xFF : Byte) ≠ 0x00 := by decide
theorem witness_BufRdReadsOneByte :
    MeetsIllegal 0x6 0x0FFF00FF 0x60000001 ∧ MeetsIllegal 0x6 0x0FFF00FF 0x60010000 ∧
    receiving.fsm ≠ .idle ∧ (configured.fsm = .idle ∧ Memory.read configured.buf 0x01 = some 0x6B) ∧
    configured.fsm = .idle ∧ Memory.read configured.buf 0xFF = none := by decide
theorem witness_UnwrittenByteIsDrawnAfresh :
    Memory.read configured.buf 0x03 = some 0x01 ∧ Memory.read configured.buf 0x04 = none := by decide
theorem witness_MemWriteWritesExactlyOneByte : (0xFF : Byte) ≠ 0x00 := by decide
theorem witness_RegionWrapsAndNeverOverlapsItself :
    0 < 255 ∧ 254 < 255 ∧ regionAddr 0xFE 254 = regionAddr 0xFE 254 := by decide
theorem witness_FrmAddrSetsSlaveAndFunction :
    MeetsIllegal 0x7 0x0FFF0000 0x70011106 ∧ sending.fsm ≠ .idle ∧ State.reset.fsm = .idle ∧
    (0x83 : Byte).getLsbD 7 = true := by decide
theorem witness_FrmTmoSetsTimeout :
    MeetsIllegal 0x8 0x0FFF0000 0x80010000 ∧ waiting.fsm ≠ .idle ∧ State.reset.fsm = .idle := by decide
theorem witness_FrmReqSetsRequestRegion :
    MeetsIllegal 0x9 0x0FFF0000 0x98000000 ∧ receiving.fsm ≠ .idle ∧ State.reset.fsm = .idle := by decide
theorem witness_FrmRspSetsResponseRegion :
    MeetsIllegal 0xA 0x0FFF0000 0xA0FE0000 ∧ receiving.fsm ≠ .idle ∧ State.reset.fsm = .idle := by decide
theorem witness_FrmGoStartsTransaction :
    MeetsIllegal 0xB 0x0FFFFFFF 0xB0000001 ∧ sending.fsm ≠ .idle ∧ State.reset.fsm = .idle := by decide

/-- A block whose transaction has just ended in `e`. -/
def endedWith (e : Ending) : State := finish e { configured with excCode := 0xFF }

/-- It satisfies the invariant. -/
theorem inv_endedWith (e : Ending) (h : ∀ m, e = .ok m → m.toNat ≤ 252) : Inv (endedWith e) :=
  inv_finish (by decide) e h

/-- A block that has just accepted FRM.GO, its port answering `writes` and `reads`. -/
def started (writes : List WriteAnswer) (reads : List ReadAnswer) : State :=
  { startTransaction configured with portWrites := writes, portReads := reads }

theorem inv_started (writes : List WriteAnswer) (reads : List ReadAnswer) : Inv (started writes reads) :=
  (inv_start (s := configured) (by decide)).congr rfl rfl rfl rfl rfl rfl rfl rfl rfl rfl rfl rfl rfl
    fun _ => ⟨rfl, rfl, rfl, rfl, rfl, rfl, rfl⟩

/-- A block that waits for the first byte, its port answering `reads`. -/
def awaiting (reads : List ReadAnswer) : State :=
  { configured with fsm := .waitFirst, portReads := reads }

theorem inv_awaiting (reads : List ReadAnswer) : Inv (awaiting reads) where
  bufCanonical := by show Memory.wf configured.buf = true; decide
  results := ⟨nofun, fun _ => rfl, fun _ => rfl, rfl⟩
  noOutcomeYet := fun _ => rfl
  sending := nofun
  waiting := fun _ => rfl
  receivingSome := nofun
  reception := fun _ =>
    ⟨by show (1000 : Half) ≠ 0; decide,
      ⟨rfl, by show (0 : Index).toNat ≤ 256; decide, rfl, rfl, rfl, rfl, nofun⟩⟩

theorem witness_FrmStatReturnsStateAndOutcome :
    MeetsIllegal 0xC 0x0FFFFFFF 0xC0000001 ∧ (Inv (started [] []) ∧ (started [] []).fsm ≠ .idle) ∧
    (Inv configured ∧ configured.fsm = .idle ∧ configured.resKind = .none) ∧
    (Inv (endedWith (.ok 252)) ∧ (endedWith (.ok 252)).fsm = .idle ∧ (endedWith (.ok 252)).resKind = .ok) ∧
    (Inv (endedWith .exception) ∧ (endedWith .exception).resKind = .exception) ∧
    (Inv (endedWith .timeout) ∧ (endedWith .timeout).resKind = .timeout) ∧
    (Inv (endedWith .badFrame) ∧ (endedWith .badFrame).resKind = .badFrame) ∧
    (Inv (endedWith .badCrc) ∧ (endedWith .badCrc).resKind = .badCrc) ∧
    (Inv (endedWith .invalidResponse) ∧ (endedWith .invalidResponse).resKind = .invalidResponse) ∧
    (Inv (endedWith (.transport 0xBEEF)) ∧ (endedWith (.transport 0xBEEF)).resKind = .transport) := by
  refine ⟨by decide, ⟨inv_started [] [], by decide⟩, ⟨?_, rfl, rfl⟩,
    ⟨inv_endedWith _ (fun m h => ?_), rfl, rfl⟩, ⟨inv_endedWith _ nofun, rfl⟩,
    ⟨inv_endedWith _ nofun, rfl⟩, ⟨inv_endedWith _ nofun, rfl⟩,
    ⟨inv_endedWith _ nofun, rfl⟩, ⟨inv_endedWith _ nofun, rfl⟩,
    ⟨inv_endedWith _ nofun, rfl⟩⟩
  · exact ⟨by show Memory.wf configured.buf = true; decide, ⟨nofun, fun _ => rfl, fun _ => rfl, rfl⟩,
      fun h => absurd rfl h, nofun, nofun, nofun, fun h => absurd h (by decide)⟩
  · rw [← Ending.ok.inj h]; decide

theorem witness_FrmXerrReturnsTransportError :
    MeetsIllegal 0xD 0x0FFFFFFF 0xD0000100 ∧ Inv (endedWith .timeout) ∧
    (endedWith .timeout).resKind ≠ .transport :=
  ⟨by decide, inv_endedWith _ nofun, by decide⟩

theorem witness_DecodeOfEncodeIsIdentity : (Instr.crcFoldr 0xFF 256).wf = true := by decide
theorem witness_EncodeOfDecodeIsIdentity : decode 0x3100FF00 = .ok (.crcFoldr 0xFF 256) := by decide
theorem witness_AssemblerWordsOrRefusal :
    (("BUF.WR", 0x50000000) : String × Word) ∈ [("BUF.WR", (0x50000000 : Word)), ("FRM.ADDR", 0x70000000),
      ("FRM.REQ", 0x90000000), ("FRM.RSP", 0xA0000000)] ∧
    (("FRM.XERR", 0xD0000000) : String × Word) ∈ [("CRC.INIT", (0x10000000 : Word)), ("CRC.READ", 0x40000000),
      ("FRM.GO", 0xB0000000), ("FRM.STAT", 0xC0000000), ("FRM.XERR", 0xD0000000)] := by decide
theorem witness_StepRunsTheDecodedCommand :
    (pending [.command 0x3100FF00, .engineTurn]).inputs = .command 0x3100FF00 :: [.engineTurn] ∧
    decode 0x3100FF00 = .ok (.crcFoldr 0xFF 256) := by decide
theorem witness_ChecksRunInOrder :
    ({ sending with inputs := [.command 0xE0000000] }.inputs = .command 0xE0000000 :: [] ∧
      ∃ e, decode 0xE0000000 = .error e) ∧
    ({ sending with inputs := [.command 0xB0000000] }.inputs = .command 0xB0000000 :: [] ∧
      decode 0xB0000000 = .ok .frmGo ∧ refusedInTransaction .frmGo = true ∧ sending.fsm ≠ .idle) ∧
    (decode 0xC0000000 = .ok .frmStat ∧ refusedInTransaction .frmStat = false) ∧
    (decode 0xB0000000 = .ok .frmGo ∧ State.reset.fsm = .idle) :=
  ⟨⟨rfl, .reservedOpcode, by decide⟩, by decide, by decide, by decide⟩
theorem witness_BusyRefusesExactlyTheListedCommands :
    (refusedInTransaction (.crcFoldr 0x00 0) = true ∧ sending.fsm ≠ .idle) ∧
    refusedInTransaction .frmXerr = false := by decide
theorem witness_EngineTurnRunsEngineStep :
    State.reset.inputs = [] ∧ (pending [.engineTurn]).inputs = .engineTurn :: [] := by decide
theorem witness_ResetInputResetsEveryRegister :
    { receiving with inputs := [.reset] }.inputs = .reset :: [] := by decide

theorem witness_EngineMakesOnePortRequestPerStep :
    State.reset.fsm = .idle ∧ (sending.fsm = .sending ∧ sending.portWrites = []) ∧
    (waiting.fsm = .waitFirst ∧ waiting.portReads = []) ∧
    ((started [.ok] []).fsm = .sending ∧ (started [.ok] []).portWrites = .ok :: []) ∧
    ((awaiting [.noByte]).fsm = .waitFirst ∧ (awaiting [.noByte]).portReads = .noByte :: []) := by decide

/-- The L1.2 request with `K` bytes accepted, the port accepting one more. -/
def sendingAt (k : Index) : State := { started [.ok] [] with k := k }

theorem witness_SendStepSendsByteK :
    ((sendingAt 0).fsm = .sending ∧ (sendingAt 0).portWrites = .ok :: [] ∧ (sendingAt 0).k = 0) ∧
    (sendingAt 1).k = 1 ∧
    ((sendingAt 2).k.toNat = 0 + 2 ∧ 0 < (sendingAt 2).reqLen.toNat ∧
      Memory.read (sendingAt 2).buf ((sendingAt 2).reqBase + BitVec.ofNat 8 0) = some 0x00) ∧
    ((sendingAt 5).k.toNat = 3 + 2 ∧ 3 < (sendingAt 5).reqLen.toNat ∧
      Memory.read { sendingAt 5 with reqBase := 0x01 }.buf (0x01 + BitVec.ofNat 8 3) = none) ∧
    (sendingAt 6).k.toNat = (sendingAt 6).reqLen.toNat + 2 := by decide
/-- The same with the port refusing the byte. -/
def refusedAt (k : Index) : State := { started [.xerr 0x0005] [] with k := k }

theorem witness_WriteErrorEndsTransaction :
    ((refusedAt 0).fsm = .sending ∧ (refusedAt 0).portWrites = .xerr 0x0005 :: [] ∧ (refusedAt 0).k = 0) ∧
    (refusedAt 1).k = 1 ∧
    ((refusedAt 2).k.toNat = 0 + 2 ∧ 0 < (refusedAt 2).reqLen.toNat ∧
      Memory.read (refusedAt 2).buf ((refusedAt 2).reqBase + BitVec.ofNat 8 0) = some 0x00) ∧
    ((refusedAt 5).k.toNat = 3 + 2 ∧ 3 < (refusedAt 5).reqLen.toNat ∧
      Memory.read { refusedAt 5 with reqBase := 0x01 }.buf (0x01 + BitVec.ofNat 8 3) = none) ∧
    (refusedAt 6).k.toNat = (refusedAt 6).reqLen.toNat + 2 ∧
    (refusedAt 7).reqLen.toNat + 3 ≤ (refusedAt 7).k.toNat := by decide
theorem witness_ZeroTimeoutEndsAfterSending :
    (sendingAt 7).fsm = .sending ∧ (sendingAt 7).portWrites = .ok :: [] ∧
    (sendingAt 7).k.toNat = (sendingAt 7).reqLen.toNat + 3 ∧
    { sendingAt 7 with timeout := 0, slave := 0x11 }.timeout = 0 ∧
    { sendingAt 7 with slave := 0x00 }.timeout ≠ 0 := by decide
theorem witness_NonzeroTimeoutStartsReception :
    (sendingAt 7).fsm = .sending ∧ (sendingAt 7).portWrites = .ok :: [] ∧
    (sendingAt 7).k.toNat = (sendingAt 7).reqLen.toNat + 3 ∧ (sendingAt 7).timeout ≠ 0 := by decide

/-- Reception with `I` bytes received, the port answering `a`. -/
def receivingAt (i : Index) (a : ReadAnswer) : State :=
  { configured with fsm := .receiving, i := i, portReads := [a] }

theorem witness_ReadWindowDependsOnState :
    ((awaiting [.noByte]).portReads = .noByte :: [] ∧ (awaiting [.noByte]).fsm = .waitFirst) ∧
    ((receivingAt 1 .noByte).portReads = .noByte :: [] ∧ (receivingAt 1 .noByte).fsm = .receiving) ∧
    (receivingAt 255 (.byte 0x00)).portReads = .byte 0x00 :: [] ∧
    (receivingAt 255 (.byte 0x00)).i.toNat ≤ 255 := by decide
theorem witness_TooLongFrameIsBadFrame :
    (receivingAt 256 (.byte 0x00)).fsm = .receiving ∧
    (receivingAt 256 (.byte 0x00)).portReads = .byte 0x00 :: [] ∧
    255 < (receivingAt 256 (.byte 0x00)).i.toNat := by decide
theorem witness_EveryByteIsFoldedAndCounted :
    (receivingAt 255 (.byte 0x00)).fsm = .receiving ∧
    (receivingAt 255 (.byte 0x00)).portReads = .byte 0x00 :: [] ∧
    (receivingAt 255 (.byte 0x00)).i.toNat ≤ 255 := by decide
theorem witness_FirstByteIsComparedWithSlave :
    (awaiting [.byte 0x12]).fsm = .waitFirst ∧ (awaiting [.byte 0x12]).portReads = .byte 0x12 :: [] ∧
    (awaiting [.byte 0x12]).i = 0 := by decide
theorem witness_SecondByteDecidesException :
    (receivingAt 1 (.byte 0x83)).fsm = .receiving ∧
    (receivingAt 1 (.byte 0x83)).portReads = .byte 0x83 :: [] ∧ (receivingAt 1 (.byte 0x83)).i = 1 := by decide
theorem witness_ExceptionFrameBytesAreNotStored :
    (({ receivingAt 2 (.byte 0x02) with exc := true }).exc = true ∧
      2 ≤ (receivingAt 2 (.byte 0x02)).i.toNat ∧ (receivingAt 2 (.byte 0x02)).i.toNat ≤ 255 ∧
      (receivingAt 2 (.byte 0x02)).portReads = .byte 0x02 :: [] ∧
      (receivingAt 2 (.byte 0x02)).fsm = .receiving) ∧
    2 ≤ (receivingAt 255 (.byte 0x02)).i.toNat ∧ (receivingAt 255 (.byte 0x02)).i.toNat ≤ 255 := by decide
theorem witness_NormalFrameBytesAreStoredOrMarked :
    ((receivingAt 4 (.byte 0x2B)).exc = false ∧ (receivingAt 4 (.byte 0x2B)).fsm = .receiving ∧
      (receivingAt 4 (.byte 0x2B)).portReads = .byte 0x2B :: [] ∧ 2 ≤ (receivingAt 4 (.byte 0x2B)).i.toNat ∧
      (receivingAt 4 (.byte 0x2B)).i.toNat ≤ 255 ∧
      (receivingAt 4 (.byte 0x2B)).i.toNat < 2 + (receivingAt 4 (.byte 0x2B)).rspLen.toNat ∧
      (0x43 : Byte) ≠ (receivingAt 4 (.byte 0x2B)).rspBase + BitVec.ofNat 8 (4 - 2)) ∧
    2 + (receivingAt 5 (.byte 0x38)).rspLen.toNat ≤ (receivingAt 5 (.byte 0x38)).i.toNat := by decide
theorem witness_ReadErrorEndsTransaction :
    (receivingAt 3 (.xerr 0x0000)).fsm = .receiving ∧
    (receivingAt 3 (.xerr 0x0000)).portReads = .xerr 0x0000 :: [] := by decide
/-- The L1.2 response received whole, the port then answering NO_BYTE. -/
def receivedWhole : State :=
  { configured with
    fsm := .receiving, i := 7, frCrc := 0x0000, portReads := [.noByte]
    buf := [(0, 0x00), (1, 0x6B), (2, 0x00), (3, 0x01), (0x40, 0x02), (0x41, 0x02), (0x42, 0x2B)]
    portLog := ([0x11, 0x03, 0x02, 0x02, 0x2B, 0x38, 0xF8] : List Byte).map fun b => .read 2 (.byte b) }

theorem inv_receivedWhole : Inv receivedWhole where
  bufCanonical := by decide
  results := ⟨nofun, fun _ => rfl, fun _ => rfl, rfl⟩
  noOutcomeYet := fun _ => rfl
  sending := nofun
  waiting := nofun
  receivingSome := fun _ => by decide
  reception := fun _ => by
    refine ⟨by decide, by decide, by decide, by decide, by decide, by decide, by decide, fun _ j v hj hv => ?_⟩
    have hj : j < 3 := hj
    match j, hj with
    | 0, _ => rw [← Option.some.inj hv]; decide
    | 1, _ => rw [← Option.some.inj hv]; decide
    | 2, _ => rw [← Option.some.inj hv]; decide

theorem witness_ClassifierAppliesTestsInOrder :
    Inv (awaiting [.noByte]) ∧
    (Inv receivedWhole ∧ receivedWhole.fsm = .receiving ∧ receivedWhole.portReads = .noByte :: [] ∧
      receivedWhole.exc = false ∧ receivedWhole.bad = false ∧ receivedWhole.frCrc = 0 ∧
      2 < receivedWhole.i.toNat - 4 ∧ (lastN 7 receivedWhole.received)[2 + 2]? = some 0x2B) ∧
    ((awaiting [.noByte]).fsm = .waitFirst ∧ (awaiting [.noByte]).portReads = .noByte :: [] ∧
      (awaiting [.noByte]).i.toNat = 0) ∧
    ((receivingAt 3 .noByte).i.toNat ≠ 0 ∧
      (receivingAt 3 .noByte).i.toNat < (receivingAt 3 .noByte).params.minFrame.toNat) ∧
    ((receivingAt 4 .noByte).params.minFrame.toNat ≤ (receivingAt 4 .noByte).i.toNat ∧
      (receivingAt 4 .noByte).frCrc ≠ 0) ∧
    ({ receivingAt 5 .noByte with frCrc := 0, exc := true }.frCrc = 0 ∧
      { receivingAt 5 .noByte with frCrc := 0, exc := true }.exc = true ∧
      (receivingAt 5 .noByte).i.toNat = 5) ∧
    (receivingAt 4 .noByte).i.toNat ≠ 5 ∧
    ({ receivingAt 4 .noByte with frCrc := 0, bad := true }.exc = false ∧
      { receivingAt 4 .noByte with frCrc := 0, bad := true }.bad = true) ∧
    (receivingAt 4 .noByte).exc = false ∧ (receivingAt 4 .noByte).bad = false :=
  ⟨inv_awaiting _, ⟨inv_receivedWhole, by decide⟩, by decide⟩

theorem witness_EveryStepTakesATableTransition :
    Inv (started [.ok] []) ∧ step (started [.ok] []) = .next (engineStep (started [.ok] [])) :=
  ⟨inv_started _ _, rfl⟩
theorem witness_StepKeepsInvariant :
    Inv (awaiting [.byte 0x11]) ∧ step (awaiting [.byte 0x11]) = .next (engineStep (awaiting [.byte 0x11])) :=
  ⟨inv_awaiting _, rfl⟩
theorem witness_TransactionSendsTheRequestFrame :
    let s : State := { configured with
      inputs := [.command 0xB0000000], portWrites := List.replicate 8 .ok }
    s.fsm = .idle ∧ s.inputs = [.command 0xB0000000] ∧
      s.portWrites = List.replicate (s.reqLen.toNat + 4) .ok ++ [] := by decide
theorem witness_ReceptionClassifiesTheWholeFrame :
    (Inv (awaiting [.noByte]) ∧ (awaiting [.noByte]).fsm = .waitFirst ∧ (awaiting [.noByte]).inputs = [] ∧
      (awaiting [.noByte]).portReads = ([] : List Byte).map ReadAnswer.byte ++ .noByte :: []) ∧
    ∃ s : State, Inv s ∧ s.fsm = .waitFirst ∧ s.inputs = [] ∧ (List.replicate 256 (0x00 : Byte)).length ≤ 256 ∧
      s.portReads = (List.replicate 256 0x00).map ReadAnswer.byte ++ .noByte :: [] :=
  ⟨⟨inv_awaiting _, rfl, rfl, rfl⟩,
    awaiting ((List.replicate 256 0x00).map ReadAnswer.byte ++ [.noByte]), inv_awaiting _, rfl, rfl,
    by rw [List.length_replicate], rfl⟩
theorem witness_TransactionEndsInBoundedSteps :
    let s := started (List.replicate 8 .ok) (List.replicate 257 (.byte 0x00))
    Inv s ∧ s.fsm ≠ .idle ∧ s.inputs = [] ∧ s.reqLen.toNat + 4 ≤ s.portWrites.length ∧
      257 ≤ s.portReads.length :=
  ⟨inv_started _ _, by decide, rfl, by decide,
    Nat.le_of_eq List.length_replicate.symm⟩

/-- A block that waits for a reply and is then sent `frame`. -/
def awaitingFrame (frame : List Byte) : State := awaiting (frame.map ReadAnswer.byte ++ [.noByte])

/-- What the statement about correct replies assumes of the state and of the payload's length. -/
abbrev AwaitsReply (s : State) (length : Nat) : Prop :=
  Inv s ∧ s.fsm = .waitFirst ∧ s.inputs = [] ∧ length ≤ 252 ∧ s.params.minFrame.toNat ≤ length + 4

theorem awaitsReply (frame : List Byte) (length : Nat) (h : length ≤ 252) :
    AwaitsReply (awaitingFrame frame) length :=
  ⟨inv_awaiting _, rfl, rfl, h, Nat.le_add_left 4 length⟩

theorem witness_CorrectRepliesAreAccepted :
    (∃ s, AwaitsReply s 3 ∧ s.func ≠ s.func ||| 0x80 ∧ 3 ≤ s.rspLen.toNat ∧
      s.portReads = (withCrc (s.slave :: s.func :: [0x02, 0x02, 0x2B])).map ReadAnswer.byte ++ .noByte :: []) ∧
    (∃ s, AwaitsReply s 1 ∧
      s.portReads = (withCrc (0x22 :: (s.func ||| 0x80) :: [0x02])).map ReadAnswer.byte ++ .noByte :: []) ∧
    (∃ s, AwaitsReply s 0 ∧
      s.portReads = (withCrc (0x11 :: (s.func ||| 0x80) :: [])).map ReadAnswer.byte ++ .noByte :: []) ∧
    ∃ s, AwaitsReply s 252 ∧
      s.portReads = (withCrc (0x11 :: (s.func ||| 0x80) :: List.replicate 252 0x00)).map ReadAnswer.byte ++
        .noByte :: [] :=
  ⟨⟨awaitingFrame (withCrc [0x11, 0x03, 0x02, 0x02, 0x2B]), awaitsReply _ _ (by decide), by decide, by decide, rfl⟩,
    ⟨awaitingFrame (withCrc [0x22, 0x83, 0x02]), awaitsReply _ _ (by decide), rfl⟩,
    ⟨awaitingFrame (withCrc [0x11, 0x83]), awaitsReply _ _ (by decide), rfl⟩,
    ⟨awaitingFrame (withCrc (0x11 :: 0x83 :: List.replicate 252 0x00)), awaitsReply _ _ (Nat.le_refl _), rfl⟩⟩
theorem witness_CrcCommandsCommuteWithEngine :
    Instr.crcRead = .crcInit ∨ (∃ b, Instr.crcRead = .crcFold b) ∨ Instr.crcRead = .crcRead :=
  .inr (.inr rfl)
theorem witness_EngineWritesOnlyTheResponseRegion :
    Inv (awaiting [.byte 0x11]) ∧ (awaiting [.byte 0x11]).fsm ≠ .receiving ∧
    ∀ j, j < (awaiting [.byte 0x11]).rspLen.toNat →
      (0x43 : Byte) ≠ (awaiting [.byte 0x11]).rspBase + BitVec.ofNat 8 j :=
  ⟨inv_awaiting _, by decide, by decide⟩
theorem witness_PortAnswersAreTakenOnlyByRequests :
    step (awaiting [.byte 0x11]) = .next (engineStep (awaiting [.byte 0x11])) := rfl

end Sys2Proof.Tests
end

section
/-! SUPPORT. Frames of the ENGINE and of the commands: which registers each leaves alone, what reads `CRC_ACC`, and what
takes an answer of the port. -/

namespace Sys2Proof.Machine

/-! What the parts of an ENGINE step can write -/

/-- The end of sending writes the working registers, the outcome and `FSM`. -/
theorem txDone_state (s : State) :
    txDone s =
      { s with
        frCrc := (txDone s).frCrc, i := (txDone s).i, bad := (txDone s).bad, exc := (txDone s).exc
        excCode := (txDone s).excCode, fsm := (txDone s).fsm
        resKind := (txDone s).resKind, resCode := (txDone s).resCode
        resLen := (txDone s).resLen, xerr := (txDone s).xerr } := by
  by_cases h : s.timeout = 0
  · rw [txDone_broadcast h]; rfl
  · rw [txDone_wait h]

/-- An accepted byte moves `K` and the frame's CRC, or ends sending. -/
theorem txAccepted_state (b : Byte) (s : State) :
    txAccepted b s =
      { s with
        k := (txAccepted b s).k
        frCrc := (txAccepted b s).frCrc, i := (txAccepted b s).i, bad := (txAccepted b s).bad
        exc := (txAccepted b s).exc, excCode := (txAccepted b s).excCode, fsm := (txAccepted b s).fsm
        resKind := (txAccepted b s).resKind, resCode := (txAccepted b s).resCode
        resLen := (txAccepted b s).resLen, xerr := (txAccepted b s).xerr } := by
  rcases Nat.lt_trichotomy s.k.toNat (s.reqLen.toNat + 2) with h | h | h
  · rw [txAccepted_body b h]
  · rw [txAccepted_crcLow b h]
  · rw [txAccepted_crcHigh b h, txDone_state]

/-- A received byte moves the receive registers and the buffer RAM, or ends the transaction. -/
theorem onByte_state (b : Byte) (s : State) :
    onByte b s =
      { s with
        frCrc := (onByte b s).frCrc, i := (onByte b s).i, bad := (onByte b s).bad
        exc := (onByte b s).exc, excCode := (onByte b s).excCode, fsm := (onByte b s).fsm
        resKind := (onByte b s).resKind, resCode := (onByte b s).resCode
        resLen := (onByte b s).resLen, xerr := (onByte b s).xerr, buf := (onByte b s).buf } := by
  rcases Nat.lt_or_ge 255 s.i.toNat with h | h
  · rw [onByte_tooLong b h]; rfl
  · rw [onByte_counted b h, storeByte_state]

/-- The registers an ENGINE step can write: never a configuration register, `CRC_ACC`, the answer, the parameters or the
pending inputs. -/
theorem engineStep_state (s : State) :
    engineStep s =
      { s with
        k := (engineStep s).k
        frCrc := (engineStep s).frCrc, i := (engineStep s).i, bad := (engineStep s).bad
        exc := (engineStep s).exc, excCode := (engineStep s).excCode, fsm := (engineStep s).fsm
        resKind := (engineStep s).resKind, resCode := (engineStep s).resCode
        resLen := (engineStep s).resLen, xerr := (engineStep s).xerr, buf := (engineStep s).buf
        portWrites := (engineStep s).portWrites, portReads := (engineStep s).portReads
        portLog := (engineStep s).portLog, draws := (engineStep s).draws } := by
  rcases engineStep_cases s with h | ⟨_, _, _, h⟩ | ⟨_, _, _, _, h⟩ | ⟨_, _, _, _, h⟩ | ⟨_, _, _, h⟩ |
    ⟨_, _, _, _, h⟩
  case inl => rw [h]
  case inr.inl => rw [h, txAccepted_state]
  case inr.inr.inl => rw [h]; rfl
  case inr.inr.inr.inl => rw [h, onByte_state]
  case inr.inr.inr.inr.inl => rw [h]; rfl
  case inr.inr.inr.inr.inr => rw [h]; rfl

/-! `CRC_ACC` is not read by the ENGINE: putting another value there commutes with each part of its step -/

section
variable (s : State) (c : Half)

theorem memRead_withCrcAcc (a : Byte) :
    memRead a { s with crcAcc := c } = ((memRead a s).1, { (memRead a s).2 with crcAcc := c }) := by
  cases h : Memory.read s.buf a with
  | none => rw [memRead_unwritten h, memRead_unwritten (s := { s with crcAcc := c }) h]
  | some v => rw [memRead_written h, memRead_written (s := { s with crcAcc := c }) h]

theorem txByte_withCrcAcc :
    txByte { s with crcAcc := c } = ((txByte s).1, { (txByte s).2 with crcAcc := c }) := by
  simp only [txByte, memRead_withCrcAcc]
  split_ifs <;> rfl

theorem txDone_withCrcAcc : txDone { s with crcAcc := c } = { txDone s with crcAcc := c } := by
  by_cases h : s.timeout = 0
  · rw [txDone_broadcast h, txDone_broadcast (s := { s with crcAcc := c }) h]; rfl
  · rw [txDone_wait h, txDone_wait (s := { s with crcAcc := c }) h]

theorem txAccepted_withCrcAcc (b : Byte) :
    txAccepted b { s with crcAcc := c } = { txAccepted b s with crcAcc := c } := by
  rcases Nat.lt_trichotomy s.k.toNat (s.reqLen.toNat + 2) with h | h | h
  · rw [txAccepted_body b h, txAccepted_body (s := { s with crcAcc := c }) b h]
  · rw [txAccepted_crcLow b h, txAccepted_crcLow (s := { s with crcAcc := c }) b h]
  · rw [txAccepted_crcHigh b h, txAccepted_crcHigh (s := { s with crcAcc := c }) b h, txDone_withCrcAcc]

theorem storeByte_withCrcAcc (b : Byte) (exc : Bool) :
    storeByte b exc { s with crcAcc := c } = { storeByte b exc s with crcAcc := c } := by
  unfold storeByte
  split_ifs <;> rfl

theorem onByte_withCrcAcc (b : Byte) :
    onByte b { s with crcAcc := c } = { onByte b s with crcAcc := c } := by
  rcases Nat.lt_or_ge 255 s.i.toNat with h | h
  · rw [onByte_tooLong b h, onByte_tooLong (s := { s with crcAcc := c }) b h]; rfl
  · rw [onByte_counted b h, onByte_counted (s := { s with crcAcc := c }) b h, storeByte_withCrcAcc]; rfl

theorem txStep_withCrcAcc : txStep { s with crcAcc := c } = { txStep s with crcAcc := c } := by
  obtain ⟨answers, h⟩ : ∃ answers, s.portWrites = answers := ⟨_, rfl⟩
  cases answers with
  | nil => rw [txStep_noAnswer h, txStep_noAnswer (s := { s with crcAcc := c }) h]
  | cons a rest =>
    cases a with
    | ok =>
      rw [txStep_ok h, txStep_ok (s := { s with crcAcc := c }) h, txByte_withCrcAcc,
        ← txAccepted_withCrcAcc]
    | xerr e =>
      rw [txStep_xerr h, txStep_xerr (s := { s with crcAcc := c }) h, txByte_withCrcAcc]; rfl

theorem rxStep_withCrcAcc : rxStep { s with crcAcc := c } = { rxStep s with crcAcc := c } := by
  obtain ⟨answers, h⟩ : ∃ answers, s.portReads = answers := ⟨_, rfl⟩
  cases answers with
  | nil => rw [rxStep_noAnswer h, rxStep_noAnswer (s := { s with crcAcc := c }) h]
  | cons a rest =>
    cases a with
    | byte b => rw [rxStep_byte h, rxStep_byte (s := { s with crcAcc := c }) h, ← onByte_withCrcAcc]; rfl
    | noByte => rw [rxStep_noByte h, rxStep_noByte (s := { s with crcAcc := c }) h]; rfl
    | xerr e => rw [rxStep_xerr h, rxStep_xerr (s := { s with crcAcc := c }) h]; rfl

/-- An ENGINE step neither reads nor writes `CRC_ACC` (70_reset_and_hazards.md R144). -/
theorem engineStep_withCrcAcc :
    engineStep { s with crcAcc := c } = { engineStep s with crcAcc := c } := by
  obtain ⟨phase, h⟩ : ∃ phase, s.fsm = phase := ⟨_, rfl⟩
  cases phase with
  | idle => rw [engineStep_idle h, engineStep_idle (s := { s with crcAcc := c }) h]
  | sending =>
    rw [engineStep_sending h, engineStep_sending (s := { s with crcAcc := c }) h, txStep_withCrcAcc]
  | waitFirst =>
    rw [engineStep_reading (.inl h), engineStep_reading (s := { s with crcAcc := c }) (.inl h),
      rxStep_withCrcAcc]
  | receiving =>
    rw [engineStep_reading (.inr h), engineStep_reading (s := { s with crcAcc := c }) (.inr h),
      rxStep_withCrcAcc]

end

/-! The port and the parameters -/

/-- The parameters, the port's coming answers and the port's history stand from `s` to `t`. -/
structure SameOutside (s t : State) : Prop where
  params : t.params = s.params
  portReads : t.portReads = s.portReads
  portWrites : t.portWrites = s.portWrites
  portLog : t.portLog = s.portLog

theorem sameOutside_txAccepted (b : Byte) (s : State) : SameOutside s (txAccepted b s) := by
  rw [txAccepted_state]; exact ⟨rfl, rfl, rfl, rfl⟩

theorem sameOutside_onByte (b : Byte) (s : State) : SameOutside s (onByte b s) := by
  rw [onByte_state]; exact ⟨rfl, rfl, rfl, rfl⟩

theorem sameOutside_finish (e : Ending) (s : State) : SameOutside s (finish e s) := ⟨rfl, rfl, rfl, rfl⟩

/-- No command's effect reaches the port: the two that read the buffer RAM move only the draw counter besides. -/
theorem sameOutside_effectOf (i : Instr) (s : State) : SameOutside s (effectOf i s) := by
  cases i
  case crcFoldr base len =>
    rw [effectOf, foldrEffect, foldRange_state]; exact ⟨rfl, rfl, rfl, rfl⟩
  case bufRd addr =>
    rw [effectOf, bufRdEffect, memRead_state]; exact ⟨rfl, rfl, rfl, rfl⟩
  all_goals exact ⟨rfl, rfl, rfl, rfl⟩

theorem sameOutside_exec {i : Instr} {s t : State} (h : exec i s = .next t) : SameOutside s t := by
  by_cases hf : s.fsm = .idle
  · obtain rfl := Host.Outcome.next.inj ((exec_idle i hf).symm.trans h)
    exact sameOutside_effectOf i s
  · rcases exec_running i hf with hb | ⟨he, _⟩
    · obtain rfl := Host.Outcome.next.inj (hb.symm.trans h)
      exact ⟨rfl, rfl, rfl, rfl⟩
    · obtain rfl := Host.Outcome.next.inj (he.symm.trans h)
      exact sameOutside_effectOf i s

/-- From `s` to `t` the parameters stand, and the port's lists stand or one request has taken the oldest answer of its
kind: a read in WAIT_FIRST or RECEIVING, a write in SENDING (20_memory.md R51, 70_reset_and_hazards.md R138). -/
def AtMostOneRequest (s t : State) : Prop :=
  t.params = s.params ∧
  ((t.portReads = s.portReads ∧ t.portWrites = s.portWrites ∧ t.portLog = s.portLog) ∨
   (∃ a w, (s.fsm = .waitFirst ∨ s.fsm = .receiving) ∧ s.portReads = a :: t.portReads ∧
      t.portWrites = s.portWrites ∧ t.portLog = s.portLog ++ [.read w a]) ∨
   (∃ a b, s.fsm = .sending ∧ s.portWrites = a :: t.portWrites ∧
      t.portReads = s.portReads ∧ t.portLog = s.portLog ++ [.write b a]))

section
variable {s t : State}

theorem AtMostOneRequest.none (h : SameOutside s t) : AtMostOneRequest s t :=
  ⟨h.params, .inl ⟨h.portReads, h.portWrites, h.portLog⟩⟩

theorem AtMostOneRequest.read {a : ReadAnswer} {rest : List ReadAnswer} {w : Half}
    (hf : s.fsm = .waitFirst ∨ s.fsm = .receiving) (hp : s.portReads = a :: rest)
    (h : SameOutside { s with portReads := rest, portLog := s.portLog ++ [.read w a] } t) :
    AtMostOneRequest s t :=
  ⟨h.params, .inr (.inl ⟨a, w, hf, by rw [hp, h.portReads], h.portWrites, h.portLog⟩)⟩

theorem AtMostOneRequest.write {a : WriteAnswer} {rest : List WriteAnswer} {b : Byte} {n : Nat}
    (hf : s.fsm = .sending) (hp : s.portWrites = a :: rest)
    (h : SameOutside
      { s with portWrites := rest, portLog := s.portLog ++ [.write b a], draws := n } t) :
    AtMostOneRequest s t :=
  ⟨h.params, .inr (.inr ⟨a, b, hf, by rw [hp, h.portWrites], h.portReads, h.portLog⟩)⟩

end

/-- An ENGINE step makes at most one request. -/
theorem atMostOneRequest_engineStep (s : State) : AtMostOneRequest s (engineStep s) := by
  rcases engineStep_cases s with h | ⟨rest, hf, hp, h⟩ | ⟨e, rest, hf, hp, h⟩ | ⟨b, rest, hf, hp, h⟩ |
    ⟨rest, hf, hp, h⟩ | ⟨e, rest, hf, hp, h⟩ <;> rw [h]
  · exact .none ⟨rfl, rfl, rfl, rfl⟩
  · exact .write hf hp (sameOutside_txAccepted _ _)
  · exact .write hf hp (sameOutside_finish _ _)
  · exact .read hf hp (sameOutside_onByte _ _)
  · exact .read hf hp (sameOutside_finish _ _)
  · exact .read hf hp (sameOutside_finish _ _)

/-- So does every step of the machine. Taking the oldest input off `inputs` is no change here, so a turn of the ENGINE is
one in a state with the same port; reset, a rejected word and a command leave the port alone. -/
theorem atMostOneRequest_step {s t : State} (h : step s = .next t) : AtMostOneRequest s t := by
  rcases step_cases h with ⟨_, rfl⟩ | ⟨rest, _, rfl⟩ | ⟨rest, _, rfl⟩ | ⟨_, rest, _, _, _, rfl⟩ |
    ⟨_, rest, i, _, _, he⟩
  case inl => exact atMostOneRequest_engineStep s
  case inr.inl => exact atMostOneRequest_engineStep { s with inputs := rest }
  case inr.inr.inl => exact .none ⟨rfl, rfl, rfl, rfl⟩
  case inr.inr.inr.inl => exact .none ⟨rfl, rfl, rfl, rfl⟩
  case inr.inr.inr.inr =>
    obtain ⟨hparams, hreads, hwrites, hlog⟩ := sameOutside_exec he
    exact .none ⟨hparams, hreads, hwrites, hlog⟩

end Sys2Proof.Machine
end

section
/-! The statements about scheduling and about what the ENGINE and the port leave alone. -/

namespace Sys2Proof.Proofs

open Sys2Proof.Machine

/-- Settles O57: the registers an ENGINE step can write are listed by `engineStep_state`, and each of its parts commutes
with putting another value into `CRC_ACC`. -/
theorem engineKeepsConfigurationAndAccumulator : Obligations.EngineKeepsConfigurationAndAccumulator := by
  intro s
  refine ⟨?_, ?_, ?_, ?_, ?_, ?_, ?_, ?_, ?_, ?_, engineStep_withCrcAcc s⟩ <;> rw [engineStep_state]

/-- Settles O60, by the cases of a step: only one that runs the ENGINE can make a request. -/
theorem portAnswersAreTakenOnlyByRequests : Obligations.PortAnswersAreTakenOnlyByRequests :=
  fun _ _ h => atMostOneRequest_step h

/-- Settles O31, by the two turns that run the ENGINE. -/
theorem engineTurnRunsEngineStep : Obligations.EngineTurnRunsEngineStep :=
  ⟨fun _ h => step_nothingPending h, fun _ _ h => step_engineTurn h⟩

end Sys2Proof.Proofs
end

section
/-! SUPPORT. The invariant along every step: what it does not depend on, and one lemma for each way a step can go. -/

namespace Sys2Proof.Safety

open Sys2Proof.Machine

/-! States that satisfy it -/

section
variable {s t : State}

/-- `CRC_ACC`, the answer, the parameters, the pending inputs, the port's coming answers and the draw counter play no part
in the invariant. -/
theorem Inv.outside (h : Inv s)
    (ht : t = { s with
      crcAcc := t.crcAcc, response := t.response, params := t.params, inputs := t.inputs
      portWrites := t.portWrites, portReads := t.portReads, draws := t.draws }) : Inv t := by
  rw [ht]
  exact h.congr rfl rfl rfl rfl rfl rfl rfl rfl rfl rfl rfl rfl rfl
    fun _ => ⟨rfl, rfl, rfl, rfl, rfl, rfl, rfl⟩

/-- In IDLE only the memory and the result registers count. -/
theorem Inv.of_idle (hf : t.fsm = .idle) (hb : t.buf.wf = true) (hr : ResultsAgree t) : Inv t where
  bufCanonical := hb
  results := hr
  noOutcomeYet := fun hn => absurd hf hn
  sending := by simp [hf]
  waiting := by simp [hf]
  receivingSome := by simp [hf]
  reception := by simp [hf]

/-- In SENDING the working registers of reception do not count. -/
theorem Inv.of_sending (hf : t.fsm = .sending) (hb : t.buf.wf = true) (hr : ResultsAgree t)
    (hk : t.resKind = .none) (hp : SendProgress t (lastN t.k.toNat t.sent)) : Inv t where
  bufCanonical := hb
  results := hr
  noOutcomeYet := fun _ => hk
  sending := fun _ => hp
  waiting := by simp [hf]
  receivingSome := by simp [hf]
  reception := by simp [hf]

/-- While no outcome is latched, the agreement of the results does not depend on `EXC_CODE`. -/
theorem ResultsAgree.congr_none (h : ResultsAgree s) (hk : s.resKind = .none)
    (ek : t.resKind = s.resKind) (ec : t.resCode = s.resCode) (el : t.resLen = s.resLen)
    (ex : t.xerr = s.xerr) : ResultsAgree t where
  lenOfOk := by rw [ek, el]; exact h.lenOfOk
  lenElse := by rw [ek, el]; exact h.lenElse
  errElse := by rw [ek, ex]; exact h.errElse
  code := by
    have hc := h.code
    rw [hk] at hc
    rw [ek, hk, ec, hc]

end

section
variable {s : State}

/-! Commands -/

/-- In IDLE a command writes the memory in canonical form, starts a transaction, or leaves memory and results alone. -/
theorem inv_effectOf (h : Inv s) (hf : s.fsm = .idle) (i : Instr) : Inv (effectOf i s) := by
  cases i
  case frmGo => exact (inv_start h.bufCanonical).outside rfl
  case bufWr addr data =>
    exact .of_idle hf (wf_write _ _ _ h.bufCanonical) (h.results.congr rfl rfl rfl rfl rfl)
  case crcFoldr base len =>
    rw [effectOf, foldrEffect, foldRange_state]; exact h.outside rfl
  case bufRd addr =>
    rw [effectOf, bufRdEffect, memRead_state]; exact h.outside rfl
  all_goals exact .of_idle hf h.bufCanonical (h.results.congr rfl rfl rfl rfl rfl)

/-- During a transaction the commands that are not BUSY write `CRC_ACC` and the answer only. -/
theorem inv_exec (h : Inv s) {i : Instr} {t : State} (he : exec i s = .next t) : Inv t := by
  by_cases hf : s.fsm = .idle
  · obtain rfl := Host.Outcome.next.inj ((exec_idle i hf).symm.trans he)
    exact inv_effectOf h hf i
  · rcases exec_running i hf with hb | ⟨hx, hi⟩
    · obtain rfl := Host.Outcome.next.inj (hb.symm.trans he)
      exact h.outside rfl
    · obtain rfl := Host.Outcome.next.inj (hx.symm.trans he)
      rcases hi with rfl | ⟨b, rfl⟩ | rfl | rfl | rfl <;> exact h.outside rfl

/-! The reset input -/

theorem inv_resetBlock (s : State) : Inv (resetBlock s) :=
  .of_idle rfl rfl ⟨nofun, fun _ => rfl, fun _ => rfl, rfl⟩

/-! Sending -/

/-- `K` and `I` count on without wrapping below 511. -/
theorem toNat_succ_index {n : Index} (h : n.toNat < 511) : (n + 1).toNat = n.toNat + 1 :=
  BitVec.toNat_add_of_lt (show n.toNat + 1 < 512 by omega)

/-- The end of sending is an outcome, or a reception with no byte received. -/
theorem inv_txDone (hb : s.buf.wf = true) (hr : ResultsAgree s) (hk : s.resKind = .none) :
    Inv (txDone s) := by
  by_cases ht : s.timeout = 0
  · rw [txDone_broadcast ht]
    exact inv_finish hb .timeout nofun
  · rw [txDone_wait ht]
    exact {
      bufCanonical := hb
      results := hr.congr_none hk rfl rfl rfl rfl
      noOutcomeYet := fun _ => hk
      sending := nofun
      waiting := fun _ => rfl
      receivingSome := nofun
      reception := fun _ => ⟨ht, by
        rw [show lastN (0 : Index).toNat _ = [] from lastN_zero _]
        exact ⟨rfl, Nat.zero_le _, rfl, rfl, rfl, rfl, nofun⟩⟩ }

/-- An accepted byte before the last moves `K` on by one, and the frame's CRC over what it covers. -/
theorem txAccepted_advance (b : Byte) (h : s.k.toNat < s.reqLen.toNat + 3) :
    txAccepted b s =
      { s with
        k := s.k + 1
        frCrc := if s.k.toNat < s.reqLen.toNat + 2 then fold s.frCrc b else s.frCrc } := by
  by_cases hb : s.k.toNat < s.reqLen.toNat + 2
  · rw [txAccepted_body b hb, if_pos hb]
  · rw [txAccepted_crcLow b (by omega), if_neg hb]

theorem sent_afterWrite (b : Byte) (rest : List WriteAnswer) :
    (afterWrite s b .ok rest).sent = s.sent ++ [b] := by
  simp [State.sent, afterWrite]

/-- An accepted byte joins the bytes sent, or ends sending. -/
theorem inv_txAccepted (h : Inv s) (hf : s.fsm = .sending) (rest : List WriteAnswer) (n : Nat) :
    Inv (txAccepted (txByte s).1 { afterWrite s (txByte s).1 .ok rest with draws := n }) := by
  have hnone := h.noOutcomeYet (by simp [hf])
  rcases Nat.lt_or_ge s.k.toNat (s.reqLen.toNat + 3) with hk | hk
  · rw [txAccepted_advance (s := { afterWrite s (txByte s).1 .ok rest with draws := n }) _ hk]
    have hL := s.reqLen.isLt
    refine .of_sending hf h.bufCanonical (h.results.congr rfl rfl rfl rfl rfl) hnone ?_
    show SendProgress _ (lastN (s.k + 1).toNat (afterWrite s (txByte s).1 .ok rest).sent)
    rw [toNat_succ_index (by omega), sent_afterWrite, lastN_concat]
    exact (h.sending hf).concat hk _ rfl rfl rfl rfl rfl rfl rfl
  · rw [txAccepted_crcHigh (s := { afterWrite s (txByte s).1 .ok rest with draws := n }) _ hk]
    exact inv_txDone h.bufCanonical (h.results.congr rfl rfl rfl rfl rfl) hnone

/-! Receiving -/

theorem four_le_minFrame (m : MinFrame) : 4 ≤ m.toNat := by
  cases m <;> simp [MinFrame.toNat]

/-- A complete frame is OK only with its four other bytes present, so its payload has at most 252. -/
theorem classification_ok_le (hi : s.i.toNat ≤ 256) {m : Index} (hm : classification s = .ok m) :
    m.toNat ≤ 252 := by
  have h4 := four_le_minFrame s.params.minFrame
  unfold classification at hm
  split_ifs at hm
  obtain rfl := Ending.ok.inj hm
  have hsub : (s.i - 4#9).toNat = s.i.toNat - 4 := 
    BitVec.toNat_sub_of_le (show 4 ≤ s.i.toNat by omega)
  show (s.i - 4#9).toNat ≤ 252
  omega

theorem received_afterRead (b : Byte) (rest : List ReadAnswer) :
    (afterRead s (.byte b) rest).received = s.received ++ [b] := by
  simp [State.received, afterRead]

/-- A received byte joins the bytes received, or is the 257th and ends the transaction. -/
theorem inv_onByte (h : Inv s) (hf : s.fsm = .waitFirst ∨ s.fsm = .receiving) (b : Byte)
    (rest : List ReadAnswer) : Inv (onByte b (afterRead s (.byte b) rest)) := by
  obtain ⟨ht, hp⟩ := h.reception hf
  have hnone := h.noOutcomeYet (by rcases hf with hf | hf <;> simp [hf])
  rcases Nat.lt_or_ge 255 s.i.toNat with hi | hi
  · rw [onByte_tooLong (s := afterRead s (.byte b) rest) b hi]
    exact inv_finish (s := afterRead s (.byte b) rest) h.bufCanonical .badFrame nofun
  · rw [onByte_counted (s := afterRead s (.byte b) rest) b hi]
    have hi1 : (s.i + 1).toNat = s.i.toNat + 1 := toNat_succ_index (by omega)
    have hprogress := (hp.congr (t := afterRead s (.byte b) rest)
      rfl rfl rfl rfl rfl rfl rfl rfl rfl rfl).concat (b := b) hi
    rw [storeByte_state] at hprogress ⊢
    exact {
      bufCanonical := storeByte_wf _ _ _ h.bufCanonical
      results := h.results.congr_none hnone rfl rfl rfl rfl
      noOutcomeYet := fun _ => hnone
      sending := nofun
      waiting := nofun
      receivingSome := fun _ h0 => by
        have : (s.i + 1).toNat = 0 := congrArg BitVec.toNat h0
        omega
      reception := fun _ => ⟨ht, by
        show ReceiveProgress _ (lastN (s.i + 1).toNat (afterRead s (.byte b) rest).received)
        rw [hi1, received_afterRead, lastN_concat]
        exact hprogress⟩ }

/-! Every step -/

theorem inv_engineStep (h : Inv s) : Inv (engineStep s) := by
  rcases engineStep_cases s with hs | ⟨rest, hf, _, hs⟩ | ⟨e, rest, _, _, hs⟩ | ⟨b, rest, hf, _, hs⟩ |
    ⟨rest, hf, _, hs⟩ | ⟨e, rest, _, _, hs⟩ <;> rw [hs]
  · exact h
  · exact inv_txAccepted h hf rest _
  · exact inv_finish (by exact h.bufCanonical) (.transport e) nofun
  · exact inv_onByte h hf b rest
  · exact inv_finish (by exact h.bufCanonical) _ fun _ => classification_ok_le (h.reception hf).2.bound
  · exact inv_finish (by exact h.bufCanonical) (.transport e) nofun

theorem inv_step (h : Inv s) {t : State} (ht : step s = .next t) : Inv t := by
  rcases step_cases ht with ⟨_, rfl⟩ | ⟨rest, _, rfl⟩ | ⟨rest, _, rfl⟩ | ⟨_, rest, _, _, _, rfl⟩ |
    ⟨_, rest, i, _, _, he⟩
  case inl => exact inv_engineStep h
  case inr.inl => exact inv_engineStep (h.outside rfl)
  case inr.inr.inl => exact inv_resetBlock _
  case inr.inr.inr.inl => exact h.outside rfl
  case inr.inr.inr.inr => exact inv_exec (h.outside rfl) he

end

/-! Reset values -/

theorem hasResetValues_resetBlock (s : State) : HasResetValues (resetBlock s) :=
  ⟨rfl, rfl, rfl, rfl, rfl, rfl, rfl, rfl, rfl, rfl, rfl, rfl, rfl, rfl, rfl, rfl, rfl, rfl, rfl,
    fun _ => rfl⟩

/-- FRM.STAT answers 0 where every register has its reset value (42_framer_cmd.md R92). -/
theorem HasResetValues.execFrmStat {s : State} (h : HasResetValues s) :
    exec .frmStat s = .next (respond .ok 0 s) := by
  have hword : statWord s = 0 := by
    rw [statWord, h.fsm, h.resKind, h.resLen, h.resCode]; rfl
  rw [exec_idle .frmStat h.fsm, effectOf, hword]

end Sys2Proof.Safety
end

section
/-! The statements about the invariant, the decoded command and reset. -/

namespace Sys2Proof.Proofs

open Sys2Proof.Machine Sys2Proof.Safety

/-- Settles O52, by the cases of a step: the ENGINE adds one byte or ends the transaction, reset clears the block, and a
command keeps what a running transaction depends on. -/
theorem stepKeepsInvariant : Obligations.StepKeepsInvariant :=
  fun _ _ hs ht => inv_step hs ht

/-- Settles O28: the host's word is taken off the pending inputs and its command runs. -/
theorem stepRunsTheDecodedCommand : Obligations.StepRunsTheDecodedCommand := by
  intro s cmd rest i hinputs hdecode
  rw [step_command hinputs, hostStep_command hdecode]

/-- Settles O33: the reset input leads to `resetBlock`, which leaves the port's channels as they were. -/
theorem resetInputResetsEveryRegister : Obligations.ResetInputResetsEveryRegister := by
  refine ⟨hasResetValues_resetBlock State.reset, fun s rest hinputs => ?_⟩
  have hreset := hasResetValues_resetBlock { s with inputs := rest }
  exact ⟨_, step_reset hinputs, hreset, hreset.execFrmStat, rfl, rfl, rfl⟩

end Sys2Proof.Proofs
end

section
/-! SUPPORT. The buffer RAM along an ENGINE step: only a received payload byte reaches it, and only inside the response
region (20_memory.md R55, R60). -/

namespace Sys2Proof.Machine

open Sys2Proof.Safety

theorem txAccepted_buf (b : Byte) (s : State) : (txAccepted b s).buf = s.buf := by
  rw [txAccepted_state]

/-- What an ENGINE step does to the buffer RAM: nothing, unless the port delivers a byte. -/
theorem engineStep_buf_cases (s : State) :
    (engineStep s).buf = s.buf ∨
    ∃ b rest, (s.fsm = .waitFirst ∨ s.fsm = .receiving) ∧
      engineStep s = onByte b (afterRead s (.byte b) rest) := by
  rcases engineStep_cases s with h | ⟨_, _, _, h⟩ | ⟨_, _, _, _, h⟩ | ⟨b, rest, hf, _, h⟩ | ⟨_, _, _, h⟩ |
    ⟨_, _, _, _, h⟩
  case inl => exact .inl (by rw [h])
  case inr.inl => exact .inl (by rw [h, txAccepted_buf])
  case inr.inr.inl => exact .inl (by rw [h, finish_buf])
  case inr.inr.inr.inl => exact .inr ⟨b, rest, hf, h⟩
  case inr.inr.inr.inr.inl => exact .inl (by rw [h, classify, finish_buf])
  case inr.inr.inr.inr.inr => exact .inl (by rw [h, finish_buf])

section
variable (b : Byte) {s : State}

/-- The slave ID and the function code of a response are not stored. -/
theorem onByte_buf_header (h : s.i.toNat < 2) : (onByte b s).buf = s.buf := by
  rw [onByte_counted b (by omega), storeByte_header h]

variable {a : Byte} (ha : ∀ j, j < s.rspLen.toNat → a ≠ s.rspBase + BitVec.ofNat 8 j)
include ha

/-- A byte is stored in the response region or not at all. -/
theorem storeByte_read_outside (exc : Bool) :
    Memory.read (storeByte b exc s).buf a = Memory.read s.buf a := by
  rcases Nat.lt_or_ge s.i.toNat 2 with hi | hi
  · rw [storeByte_header hi]
  cases exc with
  | true => rw [storeByte_exception hi]
  | false =>
    rcases Nat.lt_or_ge s.i.toNat (2 + s.rspLen.toNat) with hl | hl
    · rw [storeByte_payload hi hl, memWrite_buf]
      exact read_write_of_ne _ _ _ (ha _ (by omega))
    · rw [storeByte_beyond hl]

theorem onByte_read_outside : Memory.read (onByte b s).buf a = Memory.read s.buf a := by
  rcases Nat.lt_or_ge 255 s.i.toNat with hi | hi
  · rw [onByte_tooLong b hi, finish_buf]
  · rw [onByte_counted b hi]
    exact storeByte_read_outside b ha _

end

/-- Outside RECEIVING a byte can only be the first one, so it is not stored. -/
theorem engineStep_buf_of_not_receiving {s : State} (hInv : Inv s) (hf : s.fsm ≠ .receiving) :
    (engineStep s).buf = s.buf := by
  rcases engineStep_buf_cases s with h | ⟨b, rest, hr, h⟩
  · exact h
  · have hi : s.i = 0 := hInv.waiting (hr.resolve_right hf)
    rw [h]
    exact onByte_buf_header b (s := afterRead s (.byte b) rest) (by simp [afterRead, hi])

theorem engineStep_read_outside {s : State} {a : Byte}
    (ha : ∀ j, j < s.rspLen.toNat → a ≠ s.rspBase + BitVec.ofNat 8 j) :
    Memory.read (engineStep s).buf a = Memory.read s.buf a := by
  rcases engineStep_buf_cases s with h | ⟨b, rest, _, h⟩
  · rw [h]
  · rw [h]
    exact onByte_read_outside b (s := afterRead s (.byte b) rest) ha

/-! Addresses of a region -/

theorem regionAddr_toNat (base : Byte) (j : Nat) :
    (regionAddr base j).toNat = (base.toNat + j) % 256 := by
  simp [regionAddr_eq]

theorem regionAddr_inj {base : Byte} {j j' : Nat} (h : j < 256) (h' : j' < 256)
    (he : regionAddr base j = regionAddr base j') : j = j' :=
  by_contra fun hne => regionAddr_ne h h' hne he

end Sys2Proof.Machine
end

section
/-! The statements about the buffer RAM. -/

namespace Sys2Proof.Proofs

open Sys2Proof.Machine

/-- Settles O59, by the cases of an ENGINE step: the one write is that of a received byte, whose index is 0 in WAIT_FIRST. -/
theorem engineWritesOnlyTheResponseRegion : Obligations.EngineWritesOnlyTheResponseRegion :=
  fun _ hInv => ⟨engineStep_buf_of_not_receiving hInv, fun _ ha => engineStep_read_outside ha⟩

/-- Settles O13, by what a read of the buffer RAM returns after a write to the same and to another address. -/
theorem memWriteWritesExactlyOneByte : Obligations.MemWriteWritesExactlyOneByte :=
  fun a v s =>
    ⟨memRead_written (read_write_self s.buf a v), fun _ hne => read_write_of_ne s.buf a v hne, rfl⟩

/-- Settles O14: offsets below 256 give different addresses from one base. -/
theorem regionWrapsAndNeverOverlapsItself : Obligations.RegionWrapsAndNeverOverlapsItself :=
  ⟨regionAddr_toNat, fun _ _ _ h h' => regionAddr_inj (by omega) (by omega)⟩

/-- Settles O12: a draw writes no byte, so the second read of an unwritten byte draws again. -/
theorem unwrittenByteIsDrawnAfresh : Obligations.UnwrittenByteIsDrawnAfresh := by
  refine ⟨fun a v s h => memRead_written h, fun a s h => ⟨memRead_unwritten h, ?_⟩, fun a s => rfl⟩
  have hsecond : Memory.read (memRead a s).2.buf a = none := by rw [memRead_state]; exact h
  rw [memRead_unwritten hsecond, memRead_unwritten h]

end Sys2Proof.Proofs
end

section
/-! SUPPORT. The encoding: the fields of a word, the rows of 30_encoding.md R68 as a relation between words and commands,
the assembler's operands and the pseudo-instructions. -/

namespace Sys2Proof

open Sys2Proof.Safety

/-! Fields of a word -/

theorem fieldOf_or (lo width : Nat) (x y : Word) :
    fieldOf lo width (x ||| y) = fieldOf lo width x ||| fieldOf lo width y := by
  ext n hn
  simp [fieldOf]

/-- A field of a word that is written out. -/
theorem fieldOf_ofNat (lo width c : Nat) :
    fieldOf lo width (BitVec.ofNat 32 c) = BitVec.ofNat width (c % 2 ^ 32 / 2 ^ lo) := by
  apply BitVec.eq_of_toNat_eq
  simp [fieldOf, BitVec.extractLsb'_toNat, Nat.shiftRight_eq_div_pow]

section
variable {width' : Nat} (x : BitVec width') {lo width pos : Nat}

/-- A field reads back the operand placed there. -/
theorem fieldOf_shiftLeft_self (h : pos + width' ≤ 32) :
    fieldOf pos width' (x.setWidth 32 <<< pos) = x := by
  ext n hn
  simp [getElem_fieldOf, BitVec.getLsbD_eq_getElem hn, show pos + n < 32 by omega]

/-- A field does not see an operand placed above or below it. -/
theorem fieldOf_shiftLeft_of_disjoint (h : pos + width' ≤ lo ∨ lo + width ≤ pos) :
    fieldOf lo width (x.setWidth 32 <<< pos) = 0 := by
  ext n hn
  simp only [getElem_fieldOf, BitVec.getLsbD_shiftLeft, BitVec.getLsbD_setWidth]
  rcases h with h | h
  · simp [BitVec.getLsbD_of_ge x (lo + n - pos) (by omega)]
  · simp [show lo + n < pos by omega]

theorem fieldOf_setWidth_self (h : width' ≤ 32) : fieldOf 0 width' (x.setWidth 32) = x := by
  simpa using fieldOf_shiftLeft_self x (pos := 0) (by omega)

theorem fieldOf_setWidth_of_le (h : width' ≤ lo) : fieldOf lo width (x.setWidth 32) = 0 := by
  simpa using fieldOf_shiftLeft_of_disjoint x (lo := lo) (width := width) (pos := 0) (by omega)

end

/-- Two words without reserved bits are equal if they agree in fields that cover every other bit. -/
theorem eq_of_fields {x y mask : Word} (fields : List (Nat × Nat))
    (hcover : ∀ n < 32, mask.getLsbD n = true ∨ ∃ f ∈ fields, f.1 ≤ n ∧ n < f.1 + f.2)
    (hx : x &&& mask = 0) (hy : y &&& mask = 0)
    (hfields : ∀ f ∈ fields, fieldOf f.1 f.2 x = fieldOf f.1 f.2 y) : x = y := by
  refine BitVec.eq_of_getLsbD_eq fun n hn => ?_
  rcases hcover n hn with hm | ⟨⟨lo, width⟩, hf, hlo, hhi⟩
  · have hclear {z : Word} (hz : z &&& mask = 0) : z.getLsbD n = false := by
      simpa [hm] using congrArg (BitVec.getLsbD · n) hz
    rw [hclear hx, hclear hy]
  · have h := congrArg (BitVec.getLsbD · (n - lo)) (hfields _ hf)
    simpa [fieldOf, show n - lo < width by omega, show lo + (n - lo) = n by omega] using h

/-! The rows -/

/-- The command a word names by the row of opcode `op`, its fields read at the places of 30_encoding.md R68. Whether the
word is legal is not asked; `decode_eq_ok` says what the decoder adds. -/
def rowCommand (op : Nat) (cmd : Word) : Option Instr :=
  match op with
  | 0x1 => some .crcInit
  | 0x2 => some (.crcFold (fieldOf 0 8 cmd))
  | 0x3 => some (.crcFoldr (fieldOf 8 8 cmd) (fieldOf 16 9 cmd))
  | 0x4 => some .crcRead
  | 0x5 => some (.bufWr (fieldOf 8 8 cmd) (fieldOf 0 8 cmd))
  | 0x6 => some (.bufRd (fieldOf 8 8 cmd))
  | 0x7 => some (.frmAddr (fieldOf 8 8 cmd) (fieldOf 0 8 cmd))
  | 0x8 => some (.frmTmo (fieldOf 0 16 cmd))
  | 0x9 => some (.frmReq (fieldOf 8 8 cmd) (fieldOf 0 8 cmd))
  | 0xA => some (.frmRsp (fieldOf 8 8 cmd) (fieldOf 0 8 cmd))
  | 0xB => some .frmGo
  | 0xC => some .frmStat
  | 0xD => some .frmXerr
  | _ => none

/-- The fields of a row beside the opcode, as low bit and width (30_encoding.md R68). -/
def rowFields (op : Nat) : List (Nat × Nat) :=
  match op with
  | 0x2 => [(0, 8)]
  | 0x3 => [(8, 8), (16, 9)]
  | 0x5 | 0x7 | 0x9 | 0xA => [(8, 8), (0, 8)]
  | 0x6 => [(8, 8)]
  | 0x8 => [(0, 16)]
  | _ => []

/-- The opcode, the reserved bits and the fields of a row cover the word. -/
theorem rowFields_cover : ∀ op : BitVec 4, ∀ n < 32,
    (resMask op.toNat).getLsbD n = true ∨
      ∃ f ∈ (28, 4) :: rowFields op.toNat, f.1 ≤ n ∧ n < f.1 + f.2 := by
  decide

/-- The command of a row determines the row's fields. -/
theorem rowCommand_inj {op : Nat} {x y : Word} (h : rowCommand op x = rowCommand op y) :
    ∀ f ∈ rowFields op, fieldOf f.1 f.2 x = fieldOf f.1 f.2 y := by
  revert h
  unfold rowCommand
  split <;> simp [rowFields]

theorem opcode_of_rowCommand {op : BitVec 4} {cmd : Word} {i : Instr}
    (h : rowCommand op.toNat cmd = some i) : i.opcode = op := by
  apply BitVec.eq_of_toNat_eq
  unfold rowCommand at h
  split at h
  case h_14 => cases h
  all_goals
    obtain rfl := Option.some.inj h
    exact Eq.symm ‹_›

/-- Three opcodes have no row. -/
theorem rowCommand_eq_none {op : Nat} {cmd : Word} (h : op < 16) :
    rowCommand op cmd = none ↔ op = 0x0 ∨ op = 0xE ∨ op = 0xF := by
  interval_cases op <;> simp [rowCommand]

/-- Only the row of CRC.FOLDR has a command that is not well-formed. -/
theorem wf_rowCommand {op : Nat} {cmd : Word} {i : Instr} (h : rowCommand op cmd = some i) :
    ¬ i.wf = true ↔ op = 0x3 ∧ 256 < (fieldOf 16 9 cmd).toNat := by
  unfold rowCommand at h
  split at h
  case h_14 => cases h
  all_goals
    obtain rfl := Option.some.inj h
    simp [Instr.wf]

/-! The decoder -/

theorem unlessReserved_eq_ok_of_wf {cmd mask : Word} {i j : Instr} (hi : i.wf = true) :
    unlessReserved cmd mask i = .ok j ↔ some i = some j ∧ cmd &&& mask = 0 ∧ j.wf = true := by
  rw [unlessReserved_eq_ok, Option.some.injEq]
  constructor
  · rintro ⟨hmask, rfl⟩; exact ⟨rfl, hmask, hi⟩
  · rintro ⟨rfl, hmask, -⟩; exact ⟨hmask, rfl⟩

/-- The row with a refusal of its own: where no bit is reserved, a command that is not well-formed is refused. -/
theorem foldrRow_eq_ok {cmd mask : Word} {i j : Instr} {long : Prop} [Decidable long]
    (hwf : i.wf = true ↔ ¬ long) :
    (if cmd &&& mask = 0 ∧ long then .error Illegal.foldrLength else unlessReserved cmd mask i) = .ok j ↔
      some i = some j ∧ cmd &&& mask = 0 ∧ j.wf = true := by
  by_cases hl : long
  · by_cases hm : cmd &&& mask = 0
    · rw [if_pos ⟨hm, hl⟩]
      exact ⟨nofun, fun ⟨hij, _, hj⟩ => absurd hl (hwf.mp (Option.some.inj hij ▸ hj))⟩
    · rw [if_neg (fun h => hm h.1), unlessReserved_error hm]
      exact ⟨nofun, fun ⟨_, hm', _⟩ => absurd hm' hm⟩
  · rw [if_neg (fun h => hl h.2), unlessReserved_eq_ok_of_wf (hwf.mpr hl)]

/-- What the decoder accepts: a word of a row, with no reserved bit set, whose command is well-formed
(30_encoding.md R70). -/
theorem decode_eq_ok {cmd : Word} {i : Instr} :
    decode cmd = .ok i ↔
      rowCommand (fieldOf 28 4 cmd).toNat cmd = some i ∧
        cmd &&& resMask (fieldOf 28 4 cmd).toNat = 0 ∧ i.wf = true := by
  unfold decode rowCommand
  split
  case h_3 h => rw [h]; exact foldrRow_eq_ok (by simp [Instr.wf])
  case h_14 => simp
  all_goals rename_i h; rw [h]; exact unlessReserved_eq_ok_of_wf rfl

theorem decode_error_iff {cmd : Word} : (∃ e, decode cmd = .error e) ↔ ∀ i, decode cmd ≠ .ok i := by
  cases h : decode cmd <;> simp

/-- Which words are ILLEGAL (30_encoding.md R71). -/
theorem decode_error_iff_reserved (cmd : Word) : (∃ e, decode cmd = .error e) ↔
    (fieldOf 28 4 cmd).toNat = 0x0 ∨ (fieldOf 28 4 cmd).toNat = 0xE ∨ (fieldOf 28 4 cmd).toNat = 0xF ∨
      cmd &&& resMask (fieldOf 28 4 cmd).toNat ≠ 0 ∨
      ((fieldOf 28 4 cmd).toNat = 0x3 ∧ 256 < (fieldOf 16 9 cmd).toNat) := by
  have hnone := rowCommand_eq_none (cmd := cmd) (fieldOf 28 4 cmd).isLt
  rw [decode_error_iff, ← or_assoc, ← or_assoc, or_assoc (b := _ = 0xE), ← hnone]
  simp only [ne_eq, decode_eq_ok]
  cases hrow : rowCommand (fieldOf 28 4 cmd).toNat cmd with
  | none => simp
  | some i =>
    rw [← wf_rowCommand hrow, ← not_and_or]
    simp

/-! The encoder -/

/-- Every command's word carries its row's opcode and no reserved bit. -/
theorem encodingFitsFormat (i : Instr) : Laws.EncodingFitsFormat.Statement i := by
  cases i with
  | crcInit => exact Laws.EncodingFitsFormat.crcInit
  | crcFold b => exact Laws.EncodingFitsFormat.crcFold b
  | crcFoldr base len => exact Laws.EncodingFitsFormat.crcFoldr base len
  | crcRead => exact Laws.EncodingFitsFormat.crcRead
  | bufWr addr data => exact Laws.EncodingFitsFormat.bufWr addr data
  | bufRd addr => exact Laws.EncodingFitsFormat.bufRd addr
  | frmAddr slave func => exact Laws.EncodingFitsFormat.frmAddr slave func
  | frmTmo tmo => exact Laws.EncodingFitsFormat.frmTmo tmo
  | frmReq base len => exact Laws.EncodingFitsFormat.frmReq base len
  | frmRsp base len => exact Laws.EncodingFitsFormat.frmRsp base len
  | frmGo => exact Laws.EncodingFitsFormat.frmGo
  | frmStat => exact Laws.EncodingFitsFormat.frmStat
  | frmXerr => exact Laws.EncodingFitsFormat.frmXerr

/-- The fields of a command's word are its operands. -/
theorem rowCommand_encode (i : Instr) : rowCommand i.opcode.toNat (encode i) = some i := by
  cases i
  case crcInit | crcRead | frmGo | frmStat | frmXerr => rfl
  all_goals
    simp [rowCommand, Instr.opcode, encode, fieldOf_or, fieldOf_ofNat, fieldOf_shiftLeft_self,
      fieldOf_shiftLeft_of_disjoint, fieldOf_setWidth_self, fieldOf_setWidth_of_le]

theorem decode_encode {i : Instr} (h : i.wf = true) : decode (encode i) = .ok i := by
  obtain ⟨hopcode, hmask⟩ := encodingFitsFormat i
  rw [decode_eq_ok, hopcode]
  exact ⟨rowCommand_encode i, hmask, h⟩

/-- A word that decodes and the word of its command agree in opcode, reserved bits and fields. -/
theorem encode_of_decode {cmd : Word} {i : Instr} (h : decode cmd = .ok i) : encode i = cmd := by
  obtain ⟨hrow, hmask, -⟩ := decode_eq_ok.mp h
  obtain ⟨hopcode, hmask'⟩ := encodingFitsFormat i
  have hrow' := rowCommand_encode i
  rw [opcode_of_rowCommand hrow] at hopcode hmask' hrow'
  refine eq_of_fields _ (rowFields_cover _) hmask' hmask fun f hf => ?_
  rcases List.mem_cons.mp hf with rfl | hf
  · exact hopcode
  · exact rowCommand_inj (hrow'.trans hrow.symm) f hf

/-! The assembler -/

theorem operand_eq (width n : Nat) :
    operand width n = if n < 2 ^ width then some (BitVec.ofNat width n) else none := rfl

/-- An operand in range stands in the word as itself. -/
theorem setWidth_ofNat_of_lt {width n : Nat} (h : n < 2 ^ width) :
    (BitVec.ofNat width n).setWidth 32 = BitVec.ofNat 32 n := by
  apply BitVec.eq_of_toNat_eq
  simp [Nat.mod_eq_of_lt h]

/-- A row of one operand, `word` giving its format. -/
theorem assemble_operand {width : Nat} (row : BitVec width → Instr) (word : Word → Word)
    (hword : ∀ x, encode (row x) = word (x.setWidth 32)) (n : Nat) :
    (do return row (← operand width n) : Option Instr).map encode =
      if n < 2 ^ width then some (word (BitVec.ofNat 32 n)) else none := by
  by_cases h : n < 2 ^ width
  · simp [operand_eq, h, hword, setWidth_ofNat_of_lt]
  · simp [operand_eq, h]

/-- A row of two operands: both are in range, or the assembler refuses. -/
theorem assemble_operands {width width' : Nat} (row : BitVec width → BitVec width' → Instr)
    (word : Word → Word → Word)
    (hword : ∀ x y, encode (row x y) = word (x.setWidth 32) (y.setWidth 32)) (m n : Nat) :
    (do return row (← operand width m) (← operand width' n) : Option Instr).map encode =
      if m < 2 ^ width ∧ n < 2 ^ width' then some (word (BitVec.ofNat 32 m) (BitVec.ofNat 32 n))
      else none := by
  by_cases hm : m < 2 ^ width
  · by_cases hn : n < 2 ^ width'
    · simp [operand_eq, hm, hn, hword, setWidth_ofNat_of_lt]
    · simp [operand_eq, hm, hn]
  · simp [operand_eq, hm]

/-- CRC.FOLDR, whose length has 9 bits and goes up to 256. -/
theorem assemble_crcFoldr (base len : Nat) :
    (assemble "CRC.FOLDR" [base, len]).map encode =
      if base < 256 ∧ len ≤ 256 then
        some (0x30000000 ||| (BitVec.ofNat 32 len <<< 16) ||| (BitVec.ofNat 32 base <<< 8))
      else none := by
  by_cases hb : base < 256
  · by_cases hfit : len ≤ 256
    · have hl : len < 512 := by omega
      simp [assemble, operand_eq, hb, hl, hfit, Nat.mod_eq_of_lt hl, encode]
    · by_cases hl : len < 512
      · simp [assemble, operand_eq, hb, hl, hfit, Nat.mod_eq_of_lt hl]
      · simp [assemble, operand_eq, hb, hl, hfit]
  · simp [assemble, operand_eq, hb]

/-! The pseudo-instructions -/

/-- BUF.FILL's addresses count up from the first (30_encoding.md R74). -/
theorem fillFrom_getElem? (addr : Byte) (bytes : List Byte) (j : Nat) :
    (fillFrom addr bytes)[j]? = bytes[j]?.map fun b => Instr.bufWr (addr + BitVec.ofNat 8 j) b := by
  induction bytes generalizing addr j with
  | nil => rfl
  | cons b bs ih =>
    cases j with
    | zero => simp [fillFrom]
    | succ j =>
      have haddr : addr + BitVec.ofNat 8 (j + 1) = addr + 1 + BitVec.ofNat 8 j := by
        rw [BitVec.ofNat_add, BitVec.add_comm (BitVec.ofNat 8 j), BitVec.add_assoc]; rfl
      simp only [fillFrom, List.getElem?_cons_succ, ih, haddr]

end Sys2Proof
end

section
/-! The statements about the encoding of commands. -/

namespace Sys2Proof.Proofs

open Sys2Proof.Safety

/-- Settles O23: the word of a command has the row's opcode, no reserved bit, and the operands in the row's fields. -/
theorem decodeOfEncodeIsIdentity : Obligations.DecodeOfEncodeIsIdentity :=
  fun _ hwf => decode_encode hwf

/-- Settles O24: opcode, reserved bits and fields cover a word, and the decoded command determines them all. -/
theorem encodeOfDecodeIsIdentity : Obligations.EncodeOfDecodeIsIdentity := by
  intro cmd i hdecode
  obtain ⟨-, -, hwf⟩ := decode_eq_ok.mp hdecode
  exact ⟨hwf, encode_of_decode hdecode⟩

/-- Settles O25: a word is accepted exactly if its opcode has a row, no reserved bit is set and its command is
well-formed. -/
theorem reservedWordsAreExactlyIllegal : Obligations.ReservedWordsAreExactlyIllegal :=
  ⟨decode_error_iff_reserved, .reservedOpcode, rfl⟩

/-- Settles O26, one row at a time: a row's operands are each in range, or the assembler refuses. -/
theorem assemblerWordsOrRefusal : Obligations.AssemblerWordsOrRefusal := by
  refine ⟨?_, assemble_crcFoldr, ?_, ?_, ?_, ?_⟩
  · exact assemble_operand .crcFold (0x20000000 ||| ·) fun _ => rfl
  · exact assemble_operand .bufRd (0x60000000 ||| · <<< 8) fun _ => rfl
  · exact assemble_operand .frmTmo (0x80000000 ||| ·) fun _ => rfl
  · simp only [List.forall_mem_cons]
    exact ⟨assemble_operands .bufWr (0x50000000 ||| · <<< 8 ||| ·) fun _ _ => rfl,
      assemble_operands .frmAddr (0x70000000 ||| · <<< 8 ||| ·) fun _ _ => rfl,
      assemble_operands .frmReq (0x90000000 ||| · <<< 8 ||| ·) fun _ _ => rfl,
      assemble_operands .frmRsp (0xA0000000 ||| · <<< 8 ||| ·) fun _ _ => rfl, nofun⟩
  · decide

/-- Settles O27: the fixed sequences stand in `Pseudo.expand`, and BUF.FILL counts its addresses up modulo 256. -/
theorem pseudoInstructionsExpand : Obligations.PseudoInstructionsExpand :=
  ⟨fun _ _ _ _ _ _ _ => ⟨rfl, rfl⟩, fun _ _ => rfl, fillFrom_getElem?⟩

/-- Settles O22: each word is the encoding of its command. -/
theorem specWordsDecode : Obligations.SpecWordsDecode :=
  ⟨decode_encode (i := .crcInit) rfl, decode_encode (i := .crcFold 0x1A) rfl,
    decode_encode (i := .crcFoldr 0x10 255) rfl, decode_encode (i := .crcFoldr 0xFF 256) rfl,
    decode_encode (i := .crcRead) rfl, decode_encode (i := .bufWr 0x20 0x6B) rfl,
    decode_encode (i := .bufRd 0x40) rfl, decode_encode (i := .frmAddr 0x11 0x03) rfl,
    decode_encode (i := .frmTmo 1000) rfl, decode_encode (i := .frmReq 0xFC 0xFD) rfl,
    decode_encode (i := .frmRsp 0x40 3) rfl, decode_encode (i := .frmGo) rfl,
    decode_encode (i := .frmStat) rfl, decode_encode (i := .frmXerr) rfl⟩

end Sys2Proof.Proofs
end

section
/-! SUPPORT. Runs in which nothing is pending, and the send phase as one of them: after `n` accepted bytes the line has
the first `n` bytes of the request frame (43_framer_engine.md R97). -/

namespace Sys2Proof.Safety

open Sys2Proof.Machine

/-! Runs -/

theorem stepN_succ_of_step {s t : State} (h : step s = .next t) (n : Nat) :
    stepN (n + 1) s = stepN n t := by
  simp [stepN, h]

theorem engineStep_inputs (s : State) : (engineStep s).inputs = s.inputs := by
  rw [engineStep_state]

/-- With nothing pending every step is the ENGINE's. -/
theorem stepN_nothingPending (n : Nat) {s : State} (h : s.inputs = []) :
    stepN n s = .next (engineStep^[n] s) := by
  induction n generalizing s with
  | zero => rfl
  | succ n ih =>
    rw [stepN_succ_of_step (step_nothingPending h), ih ((engineStep_inputs s).trans h),
      Function.iterate_succ_apply]

/-! Whole frames -/

theorem withCrc_length (body : List Byte) : (withCrc body).length = body.length + 2 := by
  simp [withCrc]

theorem withCrc_take_body (body : List Byte) : (withCrc body).take body.length = body :=
  List.take_left

theorem withCrc_eq_concat (body : List Byte) :
    withCrc body = (withCrc body).take (body.length + 1) ++ [crcHigh (crc body)] := by
  simp [withCrc, List.take_append]

/-- The last byte completes the request frame. -/
theorem SendProgress.complete {s : State} {xs : List Byte} (h : SendProgress s xs)
    (hk : s.k.toNat = s.reqLen.toNat + 3) :
    ∃ payload : List Byte, payload.length = s.reqLen.toNat ∧
      AgreesWithBuf s.buf s.reqBase payload ∧
      xs ++ [(txByte s).1] = requestFrame s.slave s.func payload := by
  obtain ⟨-, -, hcrc, payload, hlen, hagree, hxs⟩ := h
  have hbody : (s.slave :: s.func :: payload).length = s.reqLen.toNat + 2 := by simp [hlen]
  have hxs : xs = (withCrc (s.slave :: s.func :: payload)).take
      ((s.slave :: s.func :: payload).length + 1) := by rw [hxs, hk, hbody]; rfl
  have hfr : s.frCrc = crc (s.slave :: s.func :: payload) := by
    rw [hcrc, hxs, ← hbody, List.take_take, Nat.min_eq_left (Nat.le_succ _), withCrc_take_body]
  refine ⟨payload, hlen, hagree, ?_⟩
  rw [txByte_crcHigh (by omega), hfr, hxs, requestFrame, ← withCrc_eq_concat]

/-! The send phase -/

/-- Nothing is sent yet when a transaction starts. -/
theorem sendProgress_start (s : State) : SendProgress (startTransaction s) [] where
  count := rfl
  bound := by simp
  crcSoFar := rfl
  isPrefix := by
    refine ⟨(List.range s.reqLen.toNat).map fun j =>
      (Memory.read s.buf (s.reqBase + BitVec.ofNat 8 j)).getD 0, by simp, fun j v hj hv => ?_, rfl⟩
    have hj : j < s.reqLen.toNat := by simpa using hj
    have hv : Memory.read s.buf (s.reqBase + BitVec.ofNat 8 j) = some v := hv
    simp [hj, hv]

/-- What the send phase leaves as it was: the request's configuration, the buffer RAM, the outcome and the answers to
coming reads. -/
structure SameRequest (s t : State) : Prop where
  slave : t.slave = s.slave
  func : t.func = s.func
  timeout : t.timeout = s.timeout
  reqBase : t.reqBase = s.reqBase
  reqLen : t.reqLen = s.reqLen
  buf : t.buf = s.buf
  resKind : t.resKind = s.resKind
  portReads : t.portReads = s.portReads

theorem SameRequest.trans {s t u : State} (h : SameRequest s t) (h' : SameRequest t u) : SameRequest s u where
  slave := h'.slave.trans h.slave
  func := h'.func.trans h.func
  timeout := h'.timeout.trans h.timeout
  reqBase := h'.reqBase.trans h.reqBase
  reqLen := h'.reqLen.trans h.reqLen
  buf := h'.buf.trans h.buf
  resKind := h'.resKind.trans h.resKind
  portReads := h'.portReads.trans h.portReads

/-- `t` is `s` with the bytes `xs` of its request frame accepted by the port. -/
structure SentSoFar (s t : State) (xs : List Byte) : Prop where
  running : t.fsm = .sending
  progress : SendProgress t xs
  sent : t.sent = s.sent ++ xs
  received : t.received = s.received
  request : SameRequest s t

section
variable {s t : State} {xs : List Byte} {rest : List WriteAnswer}

theorem received_afterWrite (b : Byte) (a : WriteAnswer) (rest : List WriteAnswer) :
    (afterWrite s b a rest).received = s.received := by
  simp [State.received, afterWrite]

theorem SentSoFar.start (h : s.fsm = .sending) (hp : SendProgress s []) : SentSoFar s s [] :=
  ⟨h, hp, (List.append_nil _).symm, rfl, rfl, rfl, rfl, rfl, rfl, rfl, rfl, rfl⟩

/-- A byte before the last: `K` advances. -/
theorem engineStep_sendMore (hf : t.fsm = .sending) (hk : t.k.toNat < t.reqLen.toNat + 3)
    (hw : t.portWrites = .ok :: rest) :
    engineStep t =
      { afterWrite t (txByte t).1 .ok rest with
        draws := (txByte t).2.draws
        k := t.k + 1
        frCrc := if t.k.toNat < t.reqLen.toNat + 2 then fold t.frCrc (txByte t).1 else t.frCrc } := by
  rw [engineStep_sending hf, txStep_ok hw]
  exact txAccepted_advance (s := { afterWrite t (txByte t).1 .ok rest with draws := (txByte t).2.draws }) _ hk

/-- The last byte: sending is done. -/
theorem engineStep_sendLast (hf : t.fsm = .sending) (hk : t.k.toNat = t.reqLen.toNat + 3)
    (hw : t.portWrites = .ok :: rest) :
    engineStep t = txDone { afterWrite t (txByte t).1 .ok rest with draws := (txByte t).2.draws } := by
  rw [engineStep_sending hf, txStep_ok hw]
  exact txAccepted_crcHigh
    (s := { afterWrite t (txByte t).1 .ok rest with draws := (txByte t).2.draws }) _ hk.ge

/-- One more byte. -/
theorem SentSoFar.step (h : SentSoFar s t xs) (hk : t.k.toNat < t.reqLen.toNat + 3)
    (hw : t.portWrites = .ok :: rest) :
    SentSoFar s (engineStep t) (xs ++ [(txByte t).1]) ∧ (engineStep t).portWrites = rest := by
  rw [engineStep_sendMore h.running hk hw]
  exact ⟨{
    running := h.running
    progress := h.progress.concat hk _ rfl rfl rfl rfl rfl rfl rfl
    sent := by rw [← List.append_assoc, ← h.sent]; exact sent_afterWrite _ rest
    received := (received_afterWrite _ .ok rest).trans h.received
    request := h.request.trans ⟨rfl, rfl, rfl, rfl, rfl, rfl, rfl, rfl⟩ }, rfl⟩

/-- `n` more bytes, none of them the last one. -/
theorem SentSoFar.run (n : Nat) (h : SentSoFar s t xs) (hk : xs.length + n ≤ s.reqLen.toNat + 3)
    (hw : t.portWrites = List.replicate n .ok ++ rest) :
    ∃ ys, ys.length = xs.length + n ∧ SentSoFar s (engineStep^[n] t) ys ∧
      (engineStep^[n] t).portWrites = rest := by
  induction n generalizing t xs with
  | zero => exact ⟨xs, rfl, h, hw⟩
  | succ n ih =>
    have hcount := h.progress.count
    obtain ⟨hnext, hwrites⟩ := h.step (by rw [h.request.reqLen]; omega) hw
    obtain ⟨ys, hys, hrun⟩ := ih hnext (by simp; omega) hwrites
    exact ⟨ys, by simp at hys; omega, hrun⟩

/-- The last byte puts the whole frame on the line and ends the send phase. -/
theorem SentSoFar.last (h : SentSoFar s t xs) (hk : xs.length = s.reqLen.toNat + 3)
    (hw : t.portWrites = .ok :: rest) :
    ∃ payload u, payload.length = s.reqLen.toNat ∧ AgreesWithBuf s.buf s.reqBase payload ∧
      engineStep t = txDone u ∧ u.sent = s.sent ++ requestFrame s.slave s.func payload ∧
      u.received = s.received ∧ u.portWrites = rest ∧ SameRequest s u := by
  have hkt : t.k.toNat = t.reqLen.toNat + 3 := by rw [← h.progress.count, hk, h.request.reqLen]
  obtain ⟨payload, hlen, hagree, hall⟩ := h.progress.complete hkt
  rw [h.request.reqLen] at hlen
  rw [h.request.buf, h.request.reqBase] at hagree
  rw [h.request.slave, h.request.func] at hall
  refine ⟨payload, _, hlen, hagree, engineStep_sendLast h.running hkt hw, ?_,
    (received_afterWrite _ .ok rest).trans h.received, rfl,
    h.request.trans ⟨rfl, rfl, rfl, rfl, rfl, rfl, rfl, rfl⟩⟩
  rw [← hall, ← List.append_assoc, ← h.sent]
  exact sent_afterWrite _ rest

/-- The whole send phase. -/
theorem send_all (hf : s.fsm = .sending) (hp : SendProgress s [])
    (hw : s.portWrites = List.replicate (s.reqLen.toNat + 4) .ok ++ rest) :
    ∃ payload u, payload.length = s.reqLen.toNat ∧ AgreesWithBuf s.buf s.reqBase payload ∧
      engineStep^[s.reqLen.toNat + 4] s = txDone u ∧
      u.sent = s.sent ++ requestFrame s.slave s.func payload ∧
      u.received = s.received ∧ u.portWrites = rest ∧ SameRequest s u := by
  rw [List.replicate_succ', List.append_assoc] at hw
  obtain ⟨xs, hxs, hsent, hwrites⟩ := (SentSoFar.start hf hp).run (s.reqLen.toNat + 3) (by simp) hw
  rw [Function.iterate_succ_apply']
  exact hsent.last (by simpa using hxs) hwrites

end

/-! The end of the send phase and its start -/

/-- The end of sending leaves the line, the buffer RAM and the port's answers alone. -/
theorem sent_txDone (s : State) : (txDone s).sent = s.sent := by
  rw [txDone_state]; rfl

theorem received_txDone (s : State) : (txDone s).received = s.received := by
  rw [txDone_state]; rfl

theorem buf_txDone (s : State) : (txDone s).buf = s.buf := by
  rw [txDone_state]

theorem portWrites_txDone (s : State) : (txDone s).portWrites = s.portWrites := by
  rw [txDone_state]

theorem portReads_txDone (s : State) : (txDone s).portReads = s.portReads := by
  rw [txDone_state]

/-- A command that decodes has its effect in IDLE. -/
theorem step_command_idle {s : State} {cmd : Word} {rest : List Input} {i : Instr}
    (hinputs : s.inputs = .command cmd :: rest) (hdecode : decode cmd = .ok i) (hidle : s.fsm = .idle) :
    step s = .next (effectOf i { s with inputs := rest }) := by
  rw [step_command hinputs, hostStep_command hdecode]
  exact exec_idle i (s := { s with inputs := rest }) hidle

end Sys2Proof.Safety
end

section
/-! The statement about the request frame. -/

namespace Sys2Proof.Proofs

open Sys2Proof.Machine Sys2Proof.Safety

/-- Settles O53: the accepted FRM.GO starts with nothing sent, and each of the following ENGINE steps sends one byte. -/
theorem transactionSendsTheRequestFrame : Obligations.TransactionSendsTheRequestFrame := by
  intro s rest hidle hinputs hwrites
  have hgo : step s = .next (effectOf .frmGo { s with inputs := [] }) :=
    step_command_idle hinputs (decode_encode (i := .frmGo) rfl) hidle
  obtain ⟨payload, u, hlen, hagree, hend, hsent, hreceived, hrest, hsame⟩ :=
    send_all (s := effectOf .frmGo { s with inputs := [] }) rfl
      ((sendProgress_start s).congr rfl rfl rfl rfl rfl rfl rfl) hwrites
  refine ⟨txDone u, payload, ?_, hlen, hagree, (sent_txDone u).trans hsent,
    (received_txDone u).trans hreceived, (buf_txDone u).trans hsame.buf,
    (portWrites_txDone u).trans hrest, (portReads_txDone u).trans hsame.portReads, fun ht => ?_, fun ht => ?_⟩
  · rw [stepN_succ_of_step hgo, stepN_nothingPending _ rfl]
    exact congrArg _ hend
  · rw [txDone_broadcast (hsame.timeout.trans ht)]
    exact ⟨rfl, rfl, rfl⟩
  · rw [txDone_wait (by rw [hsame.timeout]; exact ht)]
    exact ⟨rfl, hsame.resKind⟩

end Sys2Proof.Proofs
end

section
/-! SUPPORT. The receive phase as a run: after `n` received bytes the registers and the buffer RAM hold what the frame so
far says, and NO_BYTE then ends the transaction with that frame's outcome (43_framer_engine.md R103 to R113). -/

namespace Sys2Proof.Safety

open Sys2Proof.Machine

/-! Outcomes of a whole frame -/

/-- The last two bytes of a frame with a correct CRC bring the CRC to 0 (40_crc.md R78). -/
theorem crc_withCrc (body : List Byte) : crc (withCrc body) = 0 := by
  have hhigh : crcHigh (crc body) = crcLow (crc body >>> 8) := by
    ext n hn
    simp [crcHigh, crcLow]
  have hshift : crc body >>> 8 >>> 8 = 0 := by
    rw [← BitVec.shiftRight_add]
    exact BitVec.ushiftRight_eq_zero (by decide)
  rw [withCrc, crc_append, List.foldl_cons, List.foldl_cons, List.foldl_nil, fold_low, hhigh, fold_low, hshift]

section
variable {minFrame : Nat} {slave func rspLen : Byte} {frame : List Byte}

theorem frameEnding_ok {m : Index} (h : frameEnding minFrame slave func rspLen frame = .ok m) :
    minFrame ≤ frame.length ∧ frameExc func frame = false ∧ frameBad slave func rspLen frame = false ∧
      m = BitVec.ofNat 9 (frame.length - 4) := by
  unfold frameEnding at h
  split_ifs at h with _ hmin _ hexc _ hbad
  exact ⟨Nat.le_of_not_lt hmin, by simpa using hexc, by simpa using hbad, (Ending.ok.inj h).symm⟩

theorem frameEnding_exception (h : frameEnding minFrame slave func rspLen frame = .exception) :
    frameExc func frame = true := by
  unfold frameEnding at h
  split_ifs at h
  assumption

theorem frameEnding_err : (frameEnding minFrame slave func rspLen frame).err = 0 := by
  unfold frameEnding
  split_ifs <;> rfl

/-- A normal frame that passes every test is no longer than the response buffer and the four other bytes. -/
theorem length_le_of_not_frameBad (hexc : frameExc func frame = false)
    (hbad : frameBad slave func rspLen frame = false) : frame.length ≤ rspLen.toNat + 4 := by
  simp [frameBad, hexc] at hbad
  omega

/-- `EXC_CODE` counts only in an EXCEPTION. -/
theorem code_congr {e : Ending} {x y : Byte} (h : e = .exception → x = y) : e.code x = e.code y := by
  cases e
  case exception => rw [h rfl]
  all_goals rfl

end

/-- The block's tests at the end of a frame are those of the whole frame (43_framer_engine.md R113). -/
theorem ReceiveProgress.classification_eq {s : State} {frame : List Byte} (h : ReceiveProgress s frame) :
    classification s = frameEnding s.params.minFrame.toNat s.slave s.func s.rspLen frame := by
  unfold classification frameEnding
  rw [h.count, h.crcSoFar, h.excFlag, h.badFlag]
  refine ite_congr rfl (fun _ => rfl) fun _ => ite_congr rfl (fun _ => rfl) fun hmin =>
    ite_congr rfl (fun _ => rfl) fun _ => ite_congr rfl (fun _ => rfl) fun _ =>
    ite_congr rfl (fun _ => rfl) fun _ => congrArg Ending.ok (BitVec.eq_of_toNat_eq ?_)
  have h4 : 4 ≤ s.i.toNat := le_trans (four_le_minFrame s.params.minFrame) (Nat.le_of_not_lt hmin)
  rw [BitVec.toNat_sub_of_le h4, BitVec.toNat_ofNat, Nat.mod_eq_of_lt (by omega)]
  rfl

/-! The run -/

/-- What reception leaves as it was: the configuration a reply is tested against, and the parameters. -/
structure SameExpectation (s t : State) : Prop where
  slave : t.slave = s.slave
  func : t.func = s.func
  rspBase : t.rspBase = s.rspBase
  rspLen : t.rspLen = s.rspLen
  params : t.params = s.params

theorem SameExpectation.engineStep {s t : State} (h : SameExpectation s t) :
    SameExpectation s (engineStep t) := by
  rw [engineStep_state]
  exact ⟨h.slave, h.func, h.rspBase, h.rspLen, h.params⟩

/-- `t` is `s`, which waits for a reply, with the bytes `xs` of it received: `windows` adds the window of the read to come,
and `unstored` says which frames leave the buffer RAM alone. -/
structure ReceivedSoFar (s t : State) (xs : List Byte) : Prop where
  running : t.fsm = .waitFirst ∨ t.fsm = .receiving
  progress : ReceiveProgress t xs
  expectation : SameExpectation s t
  sent : t.sent = s.sent
  received : t.received = s.received ++ xs
  outside : ∀ a : Byte, (∀ j, j < s.rspLen.toNat → a ≠ s.rspBase + BitVec.ofNat 8 j) →
    Memory.read t.buf a = Memory.read s.buf a
  windows : t.windows ++ [readWindow t] =
    s.windows ++ s.timeout :: List.replicate xs.length s.params.idleMs
  unstored : xs.length ≤ 2 ∨ frameExc s.func xs = true → t.buf = s.buf

section
variable {s t : State} {xs : List Byte} {b : Byte} {rest : List ReadAnswer}

theorem ReceivedSoFar.start (h : Inv s) (hf : s.fsm = .waitFirst) : ReceivedSoFar s s [] where
  running := .inl hf
  progress := by
    have hi : s.i.toNat = 0 := by rw [h.waiting hf]; rfl
    simpa [hi, lastN_zero] using (h.reception (.inl hf)).2
  expectation := ⟨rfl, rfl, rfl, rfl, rfl⟩
  sent := rfl
  received := (List.append_nil _).symm
  outside := fun _ _ => rfl
  windows := by simp [readWindow, hf]
  unstored := fun _ => rfl

theorem engineStep_byte (hf : t.fsm = .waitFirst ∨ t.fsm = .receiving)
    (hp : t.portReads = .byte b :: rest) :
    engineStep t = onByte b (afterRead t (.byte b) rest) := by
  rw [engineStep_reading hf, rxStep_byte hp]; rfl

theorem engineStep_noByte (hf : t.fsm = .waitFirst ∨ t.fsm = .receiving)
    (hp : t.portReads = .noByte :: rest) :
    engineStep t = finish (classification t) (afterRead t .noByte rest) := by
  rw [engineStep_reading hf, rxStep_noByte hp]; rfl

theorem sent_afterRead (a : ReadAnswer) (rest : List ReadAnswer) : (afterRead t a rest).sent = t.sent := by
  simp [State.sent, afterRead]

theorem windows_afterRead (a : ReadAnswer) (rest : List ReadAnswer) :
    (afterRead t a rest).windows = t.windows ++ [readWindow t] := by
  simp [State.windows, afterRead, readWindow]

/-- A byte of an exception frame is not stored. -/
theorem onByte_buf_exception (hi : t.i.toNat ≤ 255) (h2 : 2 ≤ t.i.toNat) (he : t.exc = true) :
    (onByte b t).buf = t.buf := by
  rw [onByte_counted b hi, excAfter_later h2, he, storeByte_exception h2]

/-- One more byte. -/
theorem ReceivedSoFar.step (h : ReceivedSoFar s t xs) (hlen : xs.length ≤ 255)
    (hp : t.portReads = .byte b :: rest) :
    ReceivedSoFar s (engineStep t) (xs ++ [b]) ∧ (engineStep t).portReads = rest := by
  have hi : t.i.toNat ≤ 255 := h.progress.count ▸ hlen
  have hstep := engineStep_byte h.running hp
  have hcounted := onByte_counted (s := afterRead t (.byte b) rest) b hi
  obtain ⟨-, hreads, -, hlog⟩ := sameOutside_onByte b (afterRead t (.byte b) rest)
  rw [← hstep] at hcounted hreads hlog
  have hfsm : (engineStep t).fsm = .receiving := by rw [hcounted]
  refine ⟨{
    running := .inr hfsm
    progress := ?_
    expectation := h.expectation.engineStep
    sent := ?_
    received := ?_
    outside := fun a ha => ?_
    windows := ?_
    unstored := fun hx => ?_ }, hreads⟩
  · rw [hcounted]
    exact (h.progress.congr (t := afterRead t (.byte b) rest)
      rfl rfl rfl rfl rfl rfl rfl rfl rfl rfl).concat (b := b) hi
  · exact ((congrArg _ hlog).trans (sent_afterRead _ rest)).trans h.sent
  · rw [← List.append_assoc, ← h.received, ← received_afterRead b rest]
    exact congrArg (List.filterMap PortEvent.delivered) hlog
  · rw [← h.outside a ha]
    refine engineStep_read_outside ?_
    rw [h.expectation.rspLen, h.expectation.rspBase]
    exact ha
  · have hidle : readWindow (engineStep t) = s.params.idleMs := by
      rw [readWindow, hfsm, if_neg nofun, h.expectation.engineStep.params]
    have hwindows : (engineStep t).windows = t.windows ++ [readWindow t] :=
      (congrArg _ hlog).trans (windows_afterRead _ rest)
    rw [hidle, hwindows, h.windows]
    simp [List.replicate_succ']
  · rw [hstep]
    rcases Nat.lt_or_ge t.i.toNat 2 with h2 | h2
    · rw [← h.unstored (.inl (h.progress.count ▸ h2.le))]
      exact onByte_buf_header b (s := afterRead t (.byte b) rest) h2
    · rw [← h.progress.count] at h2
      have hexc : frameExc s.func xs = true := by
        have hx' := hx.resolve_left (by simp; omega)
        rwa [frameExc_concat, if_neg (by omega)] at hx'
      have het : t.exc = true := by rw [h.progress.excFlag, h.expectation.func, hexc]
      rw [← h.unstored (.inr hexc)]
      exact onByte_buf_exception (t := afterRead t (.byte b) rest) hi (h.progress.count ▸ h2) het

/-- The bytes of a frame, one after the other. -/
theorem ReceivedSoFar.run (frame : List Byte) (h : ReceivedSoFar s t xs)
    (hlen : (xs ++ frame).length ≤ 256) (hp : t.portReads = frame.map ReadAnswer.byte ++ rest) :
    ReceivedSoFar s (engineStep^[frame.length] t) (xs ++ frame) ∧
      (engineStep^[frame.length] t).portReads = rest := by
  induction frame generalizing t xs with
  | nil => exact ⟨by simpa using h, hp⟩
  | cons b frame ih =>
    rw [List.append_cons] at hlen ⊢
    obtain ⟨hnext, hreads⟩ := h.step (by simp at hlen; omega) hp
    exact ih hnext hlen hreads

/-- The whole receive phase: the frame, then NO_BYTE. -/
theorem receive_all {frame : List Byte} (h : Inv s) (hf : s.fsm = .waitFirst) (hlen : frame.length ≤ 256)
    (hp : s.portReads = frame.map ReadAnswer.byte ++ .noByte :: rest) :
    ∃ t, ReceivedSoFar s t frame ∧ engineStep^[frame.length + 1] s =
      finish (frameEnding s.params.minFrame.toNat s.slave s.func s.rspLen frame)
        (afterRead t .noByte rest) := by
  obtain ⟨ht, hreads⟩ := (ReceivedSoFar.start h hf).run frame hlen hp
  refine ⟨_, ht, ?_⟩
  have hexp := ht.expectation
  rw [Function.iterate_succ_apply', engineStep_noByte ht.running hreads, ht.progress.classification_eq,
    hexp.params, hexp.slave, hexp.func, hexp.rspLen]
  rfl

/-- On OK every payload byte is in the buffer RAM. -/
theorem ReceivedSoFar.payload_stored {minFrame : Nat} {m : Index} (h : ReceivedSoFar s t xs)
    (hok : frameEnding minFrame s.slave s.func s.rspLen xs = .ok m) {j : Nat} {v : Byte}
    (hj : j < m.toNat) (hv : xs[j + 2]? = some v) :
    Memory.read t.buf (s.rspBase + BitVec.ofNat 8 j) = some v := by
  obtain ⟨-, hexc, hbad, rfl⟩ := frameEnding_ok hok
  have hfits := length_le_of_not_frameBad hexc hbad
  have hm : j < xs.length - 4 := lt_of_lt_of_le hj (by simpa using Nat.mod_le _ _)
  rw [← h.expectation.rspBase]
  refine h.progress.stored (by rw [h.expectation.func, hexc]) j v ?_ hv
  rw [h.expectation.rspLen]
  omega

/-- The code of the outcome is that of the frame's byte 2. -/
theorem ReceivedSoFar.code (h : ReceivedSoFar s t xs) (minFrame : Nat) :
    (frameEnding minFrame s.slave s.func s.rspLen xs).code t.excCode =
      (frameEnding minFrame s.slave s.func s.rspLen xs).code (xs.getD 2 0) := by
  refine code_congr fun he => ?_
  rw [h.progress.code, h.expectation.func, if_pos (frameEnding_exception he)]

/-- BUF.RD of a written byte (41_buffer.md R86). -/
theorem exec_bufRd_written {a v : Byte} (hidle : s.fsm = .idle) (hv : Memory.read s.buf a = some v) :
    exec (.bufRd a) s = .next { s with response := some { ack := .ok, rdata := v.setWidth 32 } } := by
  rw [exec_idle _ hidle, effectOf, bufRdEffect, memRead_written hv]
  rfl

end

/-! Correct replies -/

theorem frameExc_withCrc (func slave fn : Byte) (payload : List Byte) :
    frameExc func (withCrc (slave :: fn :: payload)) = decide (fn = func ||| 0x80) := by
  simp [frameExc, withCrc]

/-- A normal reply that fits the response buffer is OK. -/
theorem frameEnding_normal {minFrame : Nat} {slave func rspLen : Byte} {payload : List Byte}
    (hmin : minFrame ≤ payload.length + 4) (hfunc : func ≠ func ||| 0x80)
    (hfits : payload.length ≤ rspLen.toNat) :
    frameEnding minFrame slave func rspLen (withCrc (slave :: func :: payload)) =
      .ok (BitVec.ofNat 9 payload.length) := by
  have hlen : (withCrc (slave :: func :: payload)).length = payload.length + 4 := withCrc_length _
  have hexc : frameExc func (withCrc (slave :: func :: payload)) = false := by
    rw [frameExc_withCrc, decide_eq_false hfunc]
  have hbad : frameBad slave func rspLen (withCrc (slave :: func :: payload)) = false := by
    rw [frameBad, hlen, hexc]
    simp [withCrc, hfits]
  rw [frameEnding, hlen, crc_withCrc, if_neg (Nat.succ_ne_zero _), if_neg (Nat.not_lt.mpr hmin),
    if_neg (not_not.mpr rfl), hexc, if_neg nofun, hbad, if_neg nofun, Nat.add_sub_cancel]

/-- A reply with the exception marker is an EXCEPTION at five bytes and invalid otherwise. -/
theorem frameEnding_marker {minFrame : Nat} {slave slave' func rspLen : Byte} {payload : List Byte}
    (hmin : minFrame ≤ payload.length + 4) :
    frameEnding minFrame slave func rspLen (withCrc (slave' :: (func ||| 0x80) :: payload)) =
      if payload.length = 1 then .exception else .invalidResponse := by
  have hlen : (withCrc (slave' :: (func ||| 0x80) :: payload)).length = payload.length + 4 :=
    withCrc_length _
  have hexc : frameExc func (withCrc (slave' :: (func ||| 0x80) :: payload)) = true := by
    rw [frameExc_withCrc, decide_eq_true rfl]
  rw [frameEnding, hlen, crc_withCrc, if_neg (Nat.succ_ne_zero _), if_neg (Nat.not_lt.mpr hmin),
    if_neg (not_not.mpr rfl), if_pos hexc]
  exact if_congr (by omega) rfl rfl

end Sys2Proof.Safety
end

section
/-! The statements about the reply frame. -/

namespace Sys2Proof.Proofs

open Sys2Proof.Machine Sys2Proof.Safety

/-- Settles O54: each byte of the frame moves the registers as the frame so far says, and NO_BYTE applies the frame's tests
to them. -/
theorem receptionClassifiesTheWholeFrame : Obligations.ReceptionClassifiesTheWholeFrame := by
  intro s frame rest hinv hwait hinputs hlen hreads
  obtain ⟨t, ht, hend⟩ := receive_all hinv hwait hlen hreads
  refine ⟨_, _, (stepN_nothingPending _ hinputs).trans (congrArg _ hend), rfl, rfl, rfl, ht.code _, rfl,
    frameEnding_err, rfl, ?_, ?_, ?_, fun m j v hok hj hv => ?_, fun a ha => ht.outside a ha⟩
  · exact (sent_afterRead _ rest).trans ht.sent
  · rw [← ht.received]
    simp [received_eq, afterRead]
  · exact (windows_afterRead _ rest).trans ht.windows
  · exact exec_bufRd_written rfl (ht.payload_stored hok hj hv)

/-- Settles O56: the two layouts are frames whose CRC is 0, so only their function byte and their length decide. -/
theorem correctRepliesAreAccepted : Obligations.CorrectRepliesAreAccepted := by
  intro s payload rest hinv hwait hinputs hlen hmin
  refine ⟨fun hfunc hfits hreads => ?_, fun slave hreads => ?_⟩
  · obtain ⟨t, ht, hend⟩ := receive_all hinv hwait (by rw [withCrc_length]; simp; omega) hreads
    have hok := frameEnding_normal (slave := s.slave) hmin hfunc hfits
    have hsize : (BitVec.ofNat 9 payload.length).toNat = payload.length := by simp; omega
    rw [withCrc_length, hok] at hend
    refine ⟨_, (stepN_nothingPending _ hinputs).trans (congrArg _ hend), rfl, rfl, rfl, hsize, rfl, rfl,
      fun j v hv => ?_⟩
    obtain ⟨hj, -⟩ := List.getElem?_eq_some_iff.mp hv
    refine exec_bufRd_written rfl (ht.payload_stored hok (hsize.symm ▸ hj) ?_)
    exact (requestFrame_getElem? _ _ _ j hj).trans hv
  · obtain ⟨t, ht, hend⟩ := receive_all hinv hwait (by rw [withCrc_length]; simp; omega) hreads
    have hkind := frameEnding_marker (slave := s.slave) (slave' := slave) (func := s.func)
      (rspLen := s.rspLen) hmin
    have hexc : frameExc s.func (withCrc (slave :: (s.func ||| 0x80) :: payload)) = true := by
      rw [frameExc_withCrc, decide_eq_true rfl]
    rw [withCrc_length] at hend
    refine ⟨_, (stepN_nothingPending _ hinputs).trans (congrArg _ hend), rfl, ?_, frameEnding_err, rfl,
      ht.unstored (.inr hexc), fun code hp => ?_, fun hp => ?_⟩
    · rw [finish_resLen, hkind]
      split_ifs <;> rfl
    · subst hp
      have hex := hkind.trans (if_pos rfl)
      exact ⟨congrArg Ending.kind hex, (ht.code _).trans (by rw [hex]; rfl)⟩
    · have hinvalid := hkind.trans (if_neg hp)
      exact ⟨congrArg Ending.kind hinvalid, congrArg (Ending.code t.excCode) hinvalid⟩

end Sys2Proof.Proofs
end

section
/-! SUPPORT. What the rejections of a command have in common, whichever command it is (60_exceptions.md R117, R118). -/

namespace Sys2Proof.Safety

open Sys2Proof.Machine

/-- A word that does not decode is taken off the pending inputs and answered ILLEGAL. -/
theorem step_illegal {cmd : Word} {s : State} {rest : List Input} (hd : ∃ e, decode cmd = .error e)
    (h : s.inputs = .command cmd :: rest) :
    step s = .next { s with inputs := rest, response := some { ack := .illegal, rdata := 0 } } := by
  obtain ⟨e, he⟩ := hd
  rw [step_command h, hostStep_illegal he]
  rfl

/-- Every opcode rejects the reserved bits of its row (30_encoding.md R70). -/
theorem illegalWithReservedBits (op : BitVec 4) : IllegalWithReservedBits op (resMask op.toNat) := by
  rintro cmd s rest rfl hmask h
  exact step_illegal ((decode_error_iff_reserved cmd).mpr (.inr (.inr (.inr (.inl hmask))))) h

/-- CRC.FOLDR rejects a length above 256 (30_encoding.md R69). -/
theorem step_crcFoldr_tooLong {cmd : Word} {s : State} {rest : List Input} (hop : cmd.extractLsb' 28 4 = 0x3#4)
    (hlen : 256 < (cmd.extractLsb' 16 9).toNat) (h : s.inputs = .command cmd :: rest) :
    step s = .next { s with inputs := rest, response := some { ack := .illegal, rdata := 0 } } :=
  step_illegal ((decode_error_iff_reserved cmd).mpr
    (.inr (.inr (.inr (.inr ⟨congrArg BitVec.toNat hop, hlen⟩))))) h

/-- The commands of the list of 60_exceptions.md R118 are refused: none is among those that have their effect. -/
theorem busyInTransaction {i : Instr} (hi : refusedInTransaction i = true) : BusyInTransaction i := by
  intro s hs
  rcases exec_running i hs with hbusy | ⟨-, rfl | ⟨b, rfl⟩ | rfl | rfl | rfl⟩
  · exact hbusy
  all_goals exact absurd hi Bool.false_ne_true

end Sys2Proof.Safety
end

section
/-! SUPPORT. The CRC step against its bit-serial form, and a fold over a range of the buffer RAM. -/

namespace Sys2Proof.Machine

open Sys2Proof.Safety

/-! The step -/

/-- The listing of T, entry by entry, is what the construction gives (40_crc.md R75). -/
theorem T_eq_shiftRounds : ∀ x : Byte, T x = shiftRounds 8 (x.setWidth 16) := by decide

/-- The recurrence as 40_crc.md R76 writes it, with the low byte masked out of the accumulator. -/
theorem fold_eq_masked (c : Half) (b : Byte) :
    fold c b = (c >>> 8) ^^^ T ((c &&& 0xFF).setWidth 8 ^^^ b) := by
  have hlow : (c &&& 0xFF).setWidth 8 = c.setWidth 8 := by
    rw [BitVec.setWidth_and, show BitVec.setWidth 8 (0xFF : Half) = BitVec.allOnes 8 from rfl,
      BitVec.and_allOnes]
  rw [fold, hlow]

/-- The accumulator with `b` in its low byte is the accumulator's high byte and the table's index, each in its place. -/
theorem xor_setWidth_eq (c : Half) (b : Byte) :
    c ^^^ b.setWidth 16 = (c >>> 8 <<< 8) ^^^ (c.setWidth 8 ^^^ b).setWidth 16 := by
  ext n hn
  by_cases h : n < 8
  · simp [h, BitVec.getLsbD_eq_getElem hn]
  · simp [h, show 8 + (n - 8) = n by omega, BitVec.getLsbD_eq_getElem hn]

/-- The rounds shift the high byte down and turn the low byte into its table entry, and they are linear. -/
theorem fold_eq_foldBits (c : Half) (b : Byte) : fold c b = foldBits c b := by
  have hhigh : shiftRounds 8 (c >>> 8 <<< 8) = c >>> 8 := by
    rw [shiftRounds_of_low_zero 8 _ (fun i hi => by simp [hi])]
    ext n hn
    simpa using BitVec.lt_of_getLsbD
  rw [foldBits, xor_setWidth_eq, shiftRounds_xor, hhigh, ← T_eq_shiftRounds, fold]

/-! The answer of CRC.READ -/

/-- ZERO stands in bit 16 (40_crc.md R84). -/
theorem crcReadWord_eq (c : Half) :
    crcReadWord c = (if c = 0 then 0x00010000 else 0) ||| c.setWidth 32 := by
  rw [crcReadWord, zeroFlag]
  split_ifs <;> rfl

/-! A range of the buffer RAM -/

section
variable (buf : Memory) (base : Byte)

/-- The range without its first byte starts one address higher. -/
theorem rangeAddr_succ (j : Nat) : base + BitVec.ofNat 8 (j + 1) = base + 1 + BitVec.ofNat 8 j := by
  rw [BitVec.add_assoc, Nat.add_comm, BitVec.ofNat_add]
  rfl

theorem unwrittenBefore_succ (n : Nat) :
    unwrittenBefore buf base (n + 1) = unwrittenBefore buf base 1 + unwrittenBefore buf (base + 1) n := by
  unfold unwrittenBefore
  rw [Nat.add_comm n, List.range_add, List.filter_append, List.length_append, List.filter_map,
    List.length_map]
  simp only [Function.comp_def, Nat.add_comm 1, rangeAddr_succ]

theorem rangeByte_succ (draws j : Nat) :
    rangeByte buf base draws (j + 1) =
      rangeByte buf (base + 1) (draws + unwrittenBefore buf base 1) j := by
  rw [rangeByte, rangeByte, rangeAddr_succ, unwrittenBefore_succ, Nat.add_assoc]

end

/-- One read is a range of one byte. -/
theorem memRead_eq_rangeByte (base : Byte) (s : State) :
    memRead base s = (rangeByte s.buf base s.draws 0,
      { s with draws := s.draws + unwrittenBefore s.buf base 1 }) := by
  cases h : Memory.read s.buf base with
  | none => simp [memRead_unwritten h, rangeByte, unwrittenBefore, h]
  | some v => simp [memRead_written h, rangeByte, unwrittenBefore, h]

/-- What a fold over a range answers: the bytes in increasing order, each unwritten one a draw of its own
(40_crc.md R83). -/
theorem foldRange_eq (n : Nat) (base : Byte) (c : Half) (s : State) :
    foldRange base n c s =
      (((List.range n).map (rangeByte s.buf base s.draws)).foldl fold c,
        { s with draws := s.draws + unwrittenBefore s.buf base n }) := by
  induction n generalizing base c s with
  | zero => rfl
  | succ n ih =>
    rw [foldRange, memRead_eq_rangeByte, ih, unwrittenBefore_succ _ _ n, List.range_succ_eq_map,
      List.map_cons, List.foldl_cons, List.map_map, ← Nat.add_assoc]
    simp only [Function.comp_def, Nat.succ_eq_add_one, rangeByte_succ]

end Sys2Proof.Machine
end

section
/-! The statements about the CRC incrementer. -/

namespace Sys2Proof.Proofs

open Sys2Proof.Machine Sys2Proof.Safety

/-- Settles O3: `foldRange_eq` says what the range folds to, and the decoder and the BUSY check do the rest. -/
theorem crcFoldrFoldsRange : Obligations.CrcFoldrFoldsRange := by
  refine ⟨fun _ _ => rfl, illegalWithReservedBits 0x3, fun _ _ _ => step_crcFoldr_tooLong,
    fun _ _ => busyInTransaction rfl, fun base len s _ hidle => ?_⟩
  rw [exec_idle _ hidle, effectOf, foldrEffect, foldRange_eq]
  rfl

/-- Settles O7: each of the two appended bytes shifts the accumulator right by a byte. -/
theorem crcOfSequenceWithItsCrcIsZero : Obligations.CrcOfSequenceWithItsCrcIsZero :=
  crc_withCrc

/-- Settles O8, by the linearity of the bit-serial rounds. -/
theorem foldEqualsBitSerialForm : Obligations.FoldEqualsBitSerialForm :=
  fold_eq_foldBits

/-- Settles O1: the accumulator is set whatever `FSM` is. -/
theorem crcInitSetsAccumulator : Obligations.CrcInitSetsAccumulator :=
  ⟨rfl, illegalWithReservedBits 0x1, fun _ => ⟨rfl, by decide⟩⟩

/-- Settles O2: the accumulator takes one step of the recurrence whatever `FSM` is. -/
theorem crcFoldFoldsOneByte : Obligations.CrcFoldFoldsOneByte := by
  refine ⟨fun _ => rfl, illegalWithReservedBits 0x2, fun b s => ?_, by decide⟩
  rw [← fold_eq_masked]
  rfl

/-- Settles O4: the answer is `crcReadWord` whatever `FSM` is. -/
theorem crcReadReturnsAccumulatorAndZero : Obligations.CrcReadReturnsAccumulatorAndZero := by
  refine ⟨rfl, illegalWithReservedBits 0x4, fun s => ?_⟩
  rw [← crcReadWord_eq]
  rfl

/-- Settles O5, entry by entry. -/
theorem tableIsTheReflectedConstruction : Obligations.TableIsTheReflectedConstruction :=
  T_eq_shiftRounds

/-- Settles O6, by `crc_concat` and the masked form of the recurrence. -/
theorem crcIsTheByteRecurrence : Obligations.CrcIsTheByteRecurrence :=
  ⟨crc_nil, crc_concat, fold_eq_masked⟩

/-- Settles O9, by nine steps of the recurrence. -/
theorem crcCheckValue : Obligations.CrcCheckValue := by
  unfold Obligations.CrcCheckValue
  decide

end Sys2Proof.Proofs
end

section
/-! SUPPORT. BUF.RD of an unwritten byte, beside `exec_bufRd_written`. -/

namespace Sys2Proof.Machine

/-- BUF.RD of an unwritten byte (41_buffer.md R86). -/
theorem exec_bufRd_unwritten {a : Byte} {s : State} (hidle : s.fsm = .idle)
    (hv : Memory.read s.buf a = none) :
    exec (.bufRd a) s = .next { s with
      draws := s.draws + 1
      response := some { ack := .ok, rdata := (Config.freeByte s.draws).setWidth 32 } } := by
  rw [exec_idle _ hidle, effectOf, bufRdEffect, memRead_unwritten hv]
  rfl

end Sys2Proof.Machine
end

section
/-! The statements about the buffer RAM commands. -/

namespace Sys2Proof.Proofs

open Sys2Proof.Machine Sys2Proof.Safety

/-- Settles O10: the new memory is `Memory.write s.buf addr data`, of which `read_write_self` and `read_write_of_ne` say
every byte. -/
theorem bufWrWritesOneByte : Obligations.BufWrWritesOneByte := by
  refine ⟨fun _ _ => rfl, illegalWithReservedBits 0x5, fun _ _ => busyInTransaction rfl, fun addr data s hidle => ?_⟩
  have hexec : exec (.bufWr addr data) s = .next (respond .ok 0 (memWrite addr data s)) := exec_idle _ hidle
  exact ⟨Memory.write s.buf addr data, hexec, read_write_self s.buf addr data,
    fun _ hne => read_write_of_ne s.buf addr data hne⟩

/-- Settles O11: an IDLE block answers the byte if it is written and the next draw if it is not. -/
theorem bufRdReadsOneByte : Obligations.BufRdReadsOneByte :=
  ⟨fun _ => rfl, illegalWithReservedBits 0x6, fun _ => busyInTransaction rfl,
    fun _ _ _ => exec_bufRd_written, fun _ _ => exec_bufRd_unwritten⟩

end Sys2Proof.Proofs
end

section
/-! SUPPORT. The answer of FRM.STAT: its fields, and what they are where the result registers agree (42_framer_cmd.md
R92); and the exception marker of a function code that is one already (R87). -/

namespace Sys2Proof.Machine

open Sys2Proof.Safety

variable {s : State}

/-- Each of FRM.STAT's four registers has a field of its own. -/
theorem fieldOf_statWord (s : State) :
    fieldOf 29 3 (statWord s) = s.fsm.bits ∧ fieldOf 25 4 (statWord s) = s.resKind.bits ∧
    fieldOf 16 9 (statWord s) = s.resLen ∧ fieldOf 0 16 (statWord s) = s.resCode := by
  refine ⟨?_, ?_, ?_, ?_⟩ <;>
    simp [statWord, fieldOf_or, fieldOf_shiftLeft_self, fieldOf_shiftLeft_of_disjoint,
      fieldOf_setWidth_self, fieldOf_setWidth_of_le]

/-- The code that goes with an outcome, `excCode` being `EXC_CODE` (10_state.md R34). -/
def ResKind.code (excCode : Byte) : ResKind → Half
  | .none | .ok => 0x0000
  | .exception => excCode.setWidth 16
  | .timeout => 0x0100
  | .badFrame => 0x0301
  | .badCrc => 0x0302
  | .invalidResponse => 0x0303
  | .transport => 0x0400

theorem resCode_eq (hr : ResultsAgree s) : s.resCode = s.resKind.code s.excCode := by
  rw [hr.code]
  cases s.resKind <;> rfl

/-- Only an accepted reply has a payload length; the word of any other outcome is its kind and its code. -/
theorem statWord_of_ne_ok (hr : ResultsAgree s) (hk : s.resKind ≠ .ok) :
    statWord s = s.fsm.bits.setWidth 32 <<< 29 ||| s.resKind.bits.setWidth 32 <<< 25 |||
      (s.resKind.code s.excCode).setWidth 32 := by
  rw [statWord, hr.lenElse hk, resCode_eq hr]
  simp

/-- While a transaction runs no outcome is latched. -/
theorem statWord_running (h : Inv s) (hf : s.fsm ≠ .idle) :
    statWord s = s.fsm.bits.setWidth 32 <<< 29 := by
  have hk := h.noOutcomeYet hf
  rw [statWord_of_ne_ok h.results (by simp [hk]), hk]
  simp [ResKind.bits, ResKind.code]

section
variable (hr : ResultsAgree s) (hf : s.fsm = .idle)
include hr hf

theorem statWord_idle_of_ne_ok {kind : ResKind} (hk : s.resKind = kind) (hne : kind ≠ .ok) :
    statWord s = kind.bits.setWidth 32 <<< 25 ||| (kind.code s.excCode).setWidth 32 := by
  subst hk
  rw [statWord_of_ne_ok hr hne, hf]
  simp [Fsm.bits]

theorem statWord_idle_ok (hk : s.resKind = .ok) :
    statWord s = 0x02000000 ||| (s.resLen.setWidth 32 <<< 16) := by
  rw [statWord, hf, resCode_eq hr, hk]
  simp [Fsm.bits, ResKind.bits, ResKind.code]

end

/-- OR with the flag bit keeps a function code that has it (42_framer_cmd.md R87). -/
theorem exceptionMarker_of_bit7 : ∀ func : Byte, func.getLsbD 7 = true → exceptionMarker func = func := by
  decide

end Sys2Proof.Machine
end

section
/-! The statements about the framer commands. -/

namespace Sys2Proof.Proofs

open Sys2Proof.Machine Sys2Proof.Safety

/-- Settles O20: the answer is `statWord s` whatever `FSM` is, and the agreement of the result registers gives each
outcome its word. -/
theorem frmStatReturnsStateAndOutcome : Obligations.FrmStatReturnsStateAndOutcome := by
  refine ⟨rfl, illegalWithReservedBits 0xC, fun s => ?_, rfl, rfl, rfl, rfl⟩
  obtain ⟨hfsm, hkind, hlen, hcode⟩ := fieldOf_statWord s
  refine ⟨statWord s, rfl, hfsm, hkind, hlen, hcode, statWord_running, fun h hf => ?_⟩
  refine ⟨?_, statWord_idle_ok h.results hf, ?_, ?_, ?_, ?_, ?_, ?_⟩ <;>
    intro hk <;>
    simpa [ResKind.bits, ResKind.code] using statWord_idle_of_ne_ok h.results hf hk (by decide)

/-- Settles O21: the answer is `XERR` whatever `FSM` is, and `XERR` agrees with the latched kind. -/
theorem frmXerrReturnsTransportError : Obligations.FrmXerrReturnsTransportError := by
  have hexec (s : State) : exec .frmXerr s = .next (respond .ok (s.xerr.setWidth 32) s) := rfl
  refine ⟨rfl, illegalWithReservedBits 0xD, hexec, fun s h hk => ?_⟩
  have hword : s.xerr.setWidth 32 = (0 : Word) := by
    rw [h.results.errElse hk]
    rfl
  rw [hexec, hword]
  rfl

/-- Settles O15: an IDLE block takes both operands, and OR with the flag bit keeps a code that has it. -/
theorem frmAddrSetsSlaveAndFunction : Obligations.FrmAddrSetsSlaveAndFunction :=
  ⟨fun _ _ => rfl, illegalWithReservedBits 0x7, fun _ _ => busyInTransaction rfl,
    fun _ func _ hidle => ⟨exec_idle _ hidle, exceptionMarker_of_bit7 func⟩⟩

/-- Settles O16: an IDLE block takes the operand. -/
theorem frmTmoSetsTimeout : Obligations.FrmTmoSetsTimeout :=
  ⟨fun _ => rfl, illegalWithReservedBits 0x8, fun _ => busyInTransaction rfl,
    fun _ _ hidle => exec_idle _ hidle⟩

/-- Settles O17: an IDLE block takes both operands. -/
theorem frmReqSetsRequestRegion : Obligations.FrmReqSetsRequestRegion :=
  ⟨fun _ _ => rfl, illegalWithReservedBits 0x9, fun _ _ => busyInTransaction rfl,
    fun _ _ _ hidle => exec_idle _ hidle⟩

/-- Settles O18: an IDLE block takes both operands. -/
theorem frmRspSetsResponseRegion : Obligations.FrmRspSetsResponseRegion :=
  ⟨fun _ _ => rfl, illegalWithReservedBits 0xA, fun _ _ => busyInTransaction rfl,
    fun _ _ _ hidle => exec_idle _ hidle⟩

/-- Settles O19: an IDLE block answers and is as `startTransaction` leaves it. -/
theorem frmGoStartsTransaction : Obligations.FrmGoStartsTransaction :=
  ⟨rfl, illegalWithReservedBits 0xB, busyInTransaction rfl, fun _ hidle => exec_idle _ hidle⟩

end Sys2Proof.Proofs
end

section
/-! SUPPORT. One step of the ENGINE, by `FSM`, the port's answer and the index of the byte (43_framer_engine.md R97 to
R113): which request it makes, and the state it leads to. -/

namespace Sys2Proof.Safety

open Sys2Proof.Machine

section
variable {s : State}

/-! The request of a step -/

theorem engineStep_write_noAnswer (hf : s.fsm = .sending) (hw : s.portWrites = []) : engineStep s = s := by
  rw [engineStep_sending hf, txStep_noAnswer hw]

theorem engineStep_read_noAnswer (hf : s.fsm = .waitFirst ∨ s.fsm = .receiving) (hp : s.portReads = []) :
    engineStep s = s := by
  rw [engineStep_reading hf, rxStep_noAnswer hp]

/-- A step in SENDING leaves the port as the write of one byte does. -/
theorem engineStep_write {a : WriteAnswer} {rest : List WriteAnswer} (hf : s.fsm = .sending)
    (hw : s.portWrites = a :: rest) : SameOutside (afterWrite s (txByte s).1 a rest) (engineStep s) := by
  rw [engineStep_sending hf]
  cases a with
  | ok =>
    rw [txStep_ok hw]
    obtain ⟨hparams, hreads, hwrites, hlog⟩ := sameOutside_txAccepted (txByte s).1
      { afterWrite s (txByte s).1 .ok rest with draws := (txByte s).2.draws }
    exact ⟨hparams, hreads, hwrites, hlog⟩
  | xerr e => rw [txStep_xerr hw]; exact ⟨rfl, rfl, rfl, rfl⟩

/-- A step in WAIT_FIRST or RECEIVING leaves the port as one read does. -/
theorem engineStep_read {a : ReadAnswer} {rest : List ReadAnswer}
    (hf : s.fsm = .waitFirst ∨ s.fsm = .receiving) (hp : s.portReads = a :: rest) :
    SameOutside (afterRead s a rest) (engineStep s) := by
  rw [engineStep_reading hf]
  cases a with
  | byte b => rw [rxStep_byte hp]; exact sameOutside_onByte b (afterRead s (.byte b) rest)
  | noByte => rw [rxStep_noByte hp]; exact sameOutside_finish _ (afterRead s .noByte rest)
  | xerr e => rw [rxStep_xerr hp]; exact sameOutside_finish _ (afterRead s (.xerr e) rest)

end

/-! Sending. The byte and the draws are given by an equation for `txByte`, so that one lemma serves every `K`. -/

section
variable {s : State} {b : Byte} {n : Nat} {rest : List WriteAnswer} (hf : s.fsm = .sending)
include hf

theorem engineStep_sendBody (hw : s.portWrites = .ok :: rest) (hk : s.k.toNat < s.reqLen.toNat + 2)
    (hb : txByte s = (b, { s with draws := n })) :
    engineStep s =
      { afterWrite s b .ok rest with k := s.k + 1, frCrc := fold s.frCrc b, draws := n } := by
  rw [engineStep_sendMore hf (by omega) hw, if_pos hk, hb]

theorem engineStep_sendCrcLow (hw : s.portWrites = .ok :: rest) (hk : s.k.toNat = s.reqLen.toNat + 2) :
    engineStep s = { afterWrite s (crcLow s.frCrc) .ok rest with k := s.k + 1 } := by
  rw [engineStep_sendMore hf (by omega) hw, if_neg (by omega), txByte_crcLow hk]
  rfl

theorem engineStep_sendCrcHigh (hw : s.portWrites = .ok :: rest) (hk : s.k.toNat = s.reqLen.toNat + 3) :
    engineStep s = txDone (afterWrite s (crcHigh s.frCrc) .ok rest) := by
  rw [engineStep_sendLast hf hk hw, txByte_crcHigh hk.ge]
  rfl

theorem engineStep_writeError {e : Half} (hw : s.portWrites = .xerr e :: rest)
    (hb : txByte s = (b, { s with draws := n })) :
    engineStep s =
      { ended (afterWrite s b (.xerr e) rest) .transport 0x0400 0 e with draws := n } := by
  rw [engineStep_sending hf, txStep_xerr hw, hb]
  rfl

end

/-! Receiving -/

section
variable {s : State} {b : Byte} {rest : List ReadAnswer} (hf : s.fsm = .waitFirst ∨ s.fsm = .receiving)
include hf

theorem engineStep_tooLong (hp : s.portReads = .byte b :: rest) (hi : 255 < s.i.toNat) :
    engineStep s = finish .badFrame (afterRead s (.byte b) rest) := by
  rw [engineStep_byte hf hp]
  exact onByte_tooLong (s := afterRead s (.byte b) rest) b hi

theorem engineStep_counted (hp : s.portReads = .byte b :: rest) (hi : s.i.toNat ≤ 255) :
    engineStep s =
      { storeByte b (excAfter s b) (afterRead s (.byte b) rest) with
        frCrc := fold s.frCrc b
        exc := excAfter s b
        bad := badAfter s b
        i := s.i + 1
        fsm := .receiving } := by
  rw [engineStep_byte hf hp]
  exact onByte_counted (s := afterRead s (.byte b) rest) b hi

theorem engineStep_readError {e : Half} (hp : s.portReads = .xerr e :: rest) :
    engineStep s = finish (.transport e) (afterRead s (.xerr e) rest) := by
  rw [engineStep_reading hf, rxStep_xerr hp]
  rfl

end

/-! The flags after the two header bytes (43_framer_engine.md R106, R107) -/

section
variable {s : State} (b : Byte)

theorem excAfter_first (hi : s.i = 0) : excAfter s b = s.exc := by
  simp [excAfter, hi]

theorem badAfter_first (hi : s.i = 0) : badAfter s b = if b ≠ s.slave then true else s.bad := by
  by_cases hb : b = s.slave <;> simp [badAfter, wrongSlave, wrongFunction, overrun, hi, hb]

theorem excAfter_second (hi : s.i = 1) :
    excAfter s b = if b = exceptionMarker s.func then true else s.exc := by
  by_cases hb : b = exceptionMarker s.func <;> simp [excAfter, hi, hb]

theorem badAfter_second (hi : s.i = 1) :
    badAfter s b =
      if b = exceptionMarker s.func then s.bad else if b ≠ s.func then true else s.bad := by
  have hfits : ¬ 4 + s.rspLen.toNat ≤ 1 := by omega
  by_cases hb : b = exceptionMarker s.func
  · simp [badAfter, wrongSlave, wrongFunction, overrun, hi, hfits, hb]
  · by_cases hfn : b = s.func
    · simp [badAfter, wrongSlave, wrongFunction, overrun, hi, hfits, hfn]
    · simp [badAfter, wrongSlave, wrongFunction, overrun, hi, hfits, hb, hfn]

end

/-! The outcome of a complete frame (43_framer_engine.md R113) -/

section
variable {s : State}

theorem classification_empty (h : s.i.toNat = 0) : classification s = .timeout :=
  if_pos h

theorem classification_short (h0 : s.i.toNat ≠ 0) (hmin : s.i.toNat < s.params.minFrame.toNat) :
    classification s = .badFrame := by
  rw [classification, if_neg h0, if_pos hmin]

/-- From `MIN_FRAME` on the length no longer counts but for an exception frame. -/
theorem classification_long (hmin : s.params.minFrame.toNat ≤ s.i.toNat) :
    classification s =
      if s.frCrc ≠ 0 then .badCrc
      else if s.exc then (if s.i.toNat = 5 then .exception else .invalidResponse)
      else if s.bad then .invalidResponse
      else .ok (s.i - 4) := by
  have h4 := four_le_minFrame s.params.minFrame
  rw [classification, if_neg (by omega), if_neg (by omega)]
  rfl

theorem toNat_payloadLength (hmin : s.params.minFrame.toNat ≤ s.i.toNat) :
    (s.i - 4).toNat = s.i.toNat - 4 :=
  BitVec.toNat_sub_of_le (le_trans (four_le_minFrame s.params.minFrame) hmin)

/-- A frame without EXC and BAD has its payload in the buffer RAM. -/
theorem Inv.payload_stored (h : Inv s) (hf : s.fsm = .waitFirst ∨ s.fsm = .receiving)
    (hexc : s.exc = false) (hbad : s.bad = false) {j : Nat} {v : Byte} (hj : j < s.i.toNat - 4)
    (hv : (lastN s.i.toNat s.received)[j + 2]? = some v) :
    Memory.read s.buf (s.rspBase + BitVec.ofNat 8 j) = some v := by
  obtain ⟨-, hp⟩ := h.reception hf
  rw [hp.excFlag] at hexc
  rw [hp.badFlag] at hbad
  have hfits := length_le_of_not_frameBad hexc hbad
  rw [hp.count] at hfits
  exact hp.stored hexc j v (by omega) hv

end

end Sys2Proof.Safety
end

section
/-! The statements about one step of the ENGINE. -/

namespace Sys2Proof.Proofs

open Sys2Proof.Machine Sys2Proof.Safety

/-- Settles O34: a step with an answer leaves the port as one request does. -/
theorem engineMakesOnePortRequestPerStep : Obligations.EngineMakesOnePortRequestPerStep := by
  refine fun s => ⟨by simp [State.busy], engineStep_idle, engineStep_write_noAnswer,
    engineStep_read_noAnswer, fun a rest hf hw => ?_, fun a rest hf hp => ?_⟩
  · obtain ⟨-, hreads, hwrites, hlog⟩ := engineStep_write hf hw
    exact ⟨hwrites, hreads, _, hlog⟩
  · obtain ⟨-, hreads, hwrites, hlog⟩ := engineStep_read hf hp
    exact ⟨hreads, hwrites, _, hlog⟩

/-- Settles O35, by the part of the frame byte `K` is in. -/
theorem sendStepSendsByteK : Obligations.SendStepSendsByteK := by
  intro s rest hf hw
  refine ⟨fun hk => ?_, fun hk => ?_, fun j v hk hj hv => ?_, fun j hk hj hv => ?_, engineStep_sendCrcLow hf hw⟩
  · have h := engineStep_sendBody hf hw (by simp [hk]) (txByte_slave (by simp [hk]))
    rwa [hk] at h
  · have h := engineStep_sendBody hf hw (by simp [hk]) (txByte_func (by simp [hk]))
    rwa [hk] at h
  · exact engineStep_sendBody hf hw (by omega) ((txByte_payload hk hj).trans (memRead_written hv))
  · exact engineStep_sendBody hf hw (by omega) ((txByte_payload hk hj).trans (memRead_unwritten hv))

/-- Settles O36, by the part of the frame byte `K` is in. -/
theorem writeErrorEndsTransaction : Obligations.WriteErrorEndsTransaction := by
  intro s e rest hf hw
  refine ⟨fun hk => ?_, fun hk => ?_, fun j v hk hj hv => ?_, fun j hk hj hv => ?_, fun hk => ?_, fun hk => ?_⟩
  · exact engineStep_writeError hf hw (txByte_slave (by simp [hk]))
  · exact engineStep_writeError hf hw (txByte_func (by simp [hk]))
  · exact engineStep_writeError hf hw ((txByte_payload hk hj).trans (memRead_written hv))
  · exact engineStep_writeError hf hw ((txByte_payload hk hj).trans (memRead_unwritten hv))
  · exact engineStep_writeError hf hw (txByte_crcLow hk)
  · exact engineStep_writeError hf hw (txByte_crcHigh hk)

/-- Settles O37: after the last byte only `TIMEOUT` decides. -/
theorem zeroTimeoutEndsAfterSending : Obligations.ZeroTimeoutEndsAfterSending := by
  intro s rest hf hw hk
  rw [engineStep_sendCrcHigh hf hw hk]
  exact ⟨fun ht => txDone_broadcast (s := afterWrite s _ .ok rest) ht,
    fun ht => congrArg State.fsm (txDone_wait (s := afterWrite s _ .ok rest) ht)⟩

/-- Settles O38: sending is done and `TIMEOUT` is not 0. -/
theorem nonzeroTimeoutStartsReception : Obligations.NonzeroTimeoutStartsReception := by
  intro s rest hf hw hk ht
  rw [engineStep_sendCrcHigh hf hw hk]
  exact txDone_wait (s := afterWrite s _ .ok rest) ht

/-- Settles O39: the window stands in the port's log; NO_BYTE goes to the classifier, and a byte to reception. -/
theorem readWindowDependsOnState : Obligations.ReadWindowDependsOnState := by
  refine ⟨fun s a rest hp => ⟨fun hf => ?_, fun hf => ?_, fun hf => ⟨?_, ?_⟩⟩, rfl⟩
  · simpa [afterRead, hf] using (engineStep_read (.inl hf) hp).portLog
  · simpa [afterRead, hf] using (engineStep_read (.inr hf) hp).portLog
  · rintro rfl
    rw [engineStep_noByte hf hp, finish_fsm]
  · rintro b rfl hi
    rw [engineStep_counted hf hp hi]

/-- Settles O40: the length test comes before the fold and the store. -/
theorem tooLongFrameIsBadFrame : Obligations.TooLongFrameIsBadFrame :=
  fun _ _ _ hf hp hi => engineStep_tooLong hf hp hi

/-- Settles O41: whatever is stored or marked, the byte is folded and counted. -/
theorem everyByteIsFoldedAndCounted : Obligations.EveryByteIsFoldedAndCounted := by
  intro s b rest hf hp hi
  rw [engineStep_counted hf hp hi]
  exact ⟨fold_eq_masked _ b, toNat_succ_index (by omega), rfl⟩

/-- Settles O42: of the tests on a byte, only that of the slave ID looks at byte 0. -/
theorem firstByteIsComparedWithSlave : Obligations.FirstByteIsComparedWithSlave := by
  intro s b rest hf hp hi
  rw [engineStep_counted hf hp (by simp [hi]), storeByte_header (by simp [afterRead, hi]),
    excAfter_first b hi, badAfter_first b hi, hi]
  rfl

/-- Settles O43: of the tests on a byte, only those of the function code look at byte 1. -/
theorem secondByteDecidesException : Obligations.SecondByteDecidesException := by
  intro s b rest hf hp hi
  rw [engineStep_counted hf hp (by simp [hi]), storeByte_header (by simp [afterRead, hi]),
    excAfter_second b hi, badAfter_second b hi, hi]
  rfl

/-- Settles O44: EXC sends byte 2 to `EXC_CODE` and keeps every later byte from being stored or marked. -/
theorem exceptionFrameBytesAreNotStored : Obligations.ExceptionFrameBytesAreNotStored := by
  intro s b rest hf hp hexc h2 hi
  have hindex : s.i.toNat = 2 ↔ s.i = 2 := BitVec.toNat_inj (y := 2#9)
  rw [engineStep_counted hf hp hi, excAfter_later h2, badAfter_later h2, hexc,
    storeByte_exception (s := afterRead s (.byte b) rest) h2]
  simp [afterRead, hindex, hexc]

/-- Settles O45: the index is inside the response buffer, where the byte is stored, or beyond it. -/
theorem normalFrameBytesAreStoredOrMarked : Obligations.NormalFrameBytesAreStoredOrMarked := by
  intro s b rest hf hp hexc h2 hi
  have hbad : badAfter s b = if 4 + s.rspLen.toNat ≤ s.i.toNat then true else s.bad := by
    rw [badAfter_later h2, hexc]
    by_cases h : 4 + s.rspLen.toNat ≤ s.i.toNat <;> simp [h]
  rw [engineStep_counted hf hp hi, excAfter_later h2, hbad, hexc]
  rcases Nat.lt_or_ge s.i.toNat (2 + s.rspLen.toNat) with hl | hl
  · rw [storeByte_payload (s := afterRead s (.byte b) rest) h2 hl]
    refine ⟨Memory.write s.buf (s.rspBase + BitVec.ofNat 8 (s.i.toNat - 2)) b, ?_, fun _ => ?_, fun hge => ?_⟩
    · simp [memWrite, afterRead, hexc]
    · exact ⟨read_write_self _ _ _, fun a ha => read_write_of_ne _ _ _ ha⟩
    · omega
  · rw [storeByte_beyond (s := afterRead s (.byte b) rest) hl]
    refine ⟨s.buf, ?_, fun hlt => ?_, fun _ => rfl⟩
    · simp [afterRead, hexc]
    · omega

/-- Settles O46: the end of a transaction writes no byte of the buffer RAM. -/
theorem readErrorEndsTransaction : Obligations.ReadErrorEndsTransaction :=
  fun _ _ _ hf hp => engineStep_readError hf hp

/-- Settles O47: NO_BYTE ends the transaction with `classification`, whose tests stand in the rule's order. -/
theorem classifierAppliesTestsInOrder : Obligations.ClassifierAppliesTestsInOrder := by
  intro s rest hf hp
  rw [engineStep_noByte hf hp]
  refine ⟨fun h0 => ⟨?_, fun h => ?_⟩, fun h0 hmin => ?_, fun hmin => ⟨fun hcrc => ?_, fun hcrc =>
    ⟨fun hexc h5 => ?_, fun hexc h5 => ?_, fun hexc hbad => ?_, fun hexc hbad => ?_⟩⟩⟩
  · rw [classification_empty h0]; rfl
  · exact hf.resolve_right fun hr => h.receivingSome hr (BitVec.eq_of_toNat_eq h0)
  · rw [classification_short h0 hmin]; rfl
  all_goals rw [classification_long hmin]
  · rw [if_pos hcrc]; rfl
  all_goals rw [if_neg (not_not.mpr hcrc), hexc]
  · rw [if_pos rfl, if_pos h5]; rfl
  · rw [if_pos rfl, if_neg h5]; rfl
  · rw [if_neg nofun, if_pos hbad]; rfl
  · rw [if_neg nofun, hbad, if_neg nofun]
    have hlen := toNat_payloadLength hmin
    exact ⟨s.i - 4, hlen, rfl, fun h j v hj hv => h.payload_stored hf hexc hbad (hlen ▸ hj) hv⟩

end Sys2Proof.Proofs
end

section
/-! SUPPORT. The transition table of `FSM` (43_framer_engine.md R114): the row each kind of step takes. -/

namespace Sys2Proof.Safety

open Sys2Proof.Machine

/-! The ENGINE's rows. The pending inputs are no part of them, so they are left open: `step` has taken the turn off. -/

section
variable {s : State} (h : Inv s) (inputs : List Input)
include h

theorem fsmEdge_sent {rest : List WriteAnswer} (hf : s.fsm = .sending) (hw : s.portWrites = .ok :: rest) :
    FsmEdge { s with inputs := inputs } (engineStep s) := by
  have hhead : s.portWrites.head? = some .ok := by rw [hw]; rfl
  rcases Nat.lt_or_eq_of_le (h.sending hf).bound with hk | hk
  · exact .sendMore hf hhead hk (by rw [engineStep_sendMore hf hk hw]; exact hf)
  rw [engineStep_sendCrcHigh hf hw hk]
  by_cases ht : s.timeout = 0
  · rw [txDone_broadcast (s := afterWrite s _ .ok rest) ht]
    exact .broadcast hf hhead hk ht rfl rfl
  · rw [txDone_wait (s := afterWrite s _ .ok rest) ht]
    exact .sent hf hhead hk ht rfl

theorem fsmEdge_byte {b : Byte} {rest : List ReadAnswer} (hf : s.fsm = .waitFirst ∨ s.fsm = .receiving)
    (hp : s.portReads = .byte b :: rest) : FsmEdge { s with inputs := inputs } (engineStep s) := by
  have hhead : s.portReads.head? = some (.byte b) := by rw [hp]; rfl
  have hbound := (h.reception hf).2.bound
  rcases Nat.lt_or_ge 255 s.i.toNat with hi | hi
  · have hr : s.fsm = .receiving := hf.resolve_left fun hwait => by simp [h.waiting hwait] at hi
    rw [engineStep_tooLong hf hp hi]
    exact .tooLong b hr hhead (le_antisymm hbound hi) rfl rfl
  · rw [engineStep_counted hf hp hi]
    rcases hf with hf | hf
    · exact .firstByte b hf hhead rfl
    · exact .nextByte b hf hhead hi rfl

theorem fsmEdge_noByte {rest : List ReadAnswer} (hf : s.fsm = .waitFirst ∨ s.fsm = .receiving)
    (hp : s.portReads = .noByte :: rest) : FsmEdge { s with inputs := inputs } (engineStep s) := by
  have hhead : s.portReads.head? = some .noByte := by rw [hp]; rfl
  rw [engineStep_noByte hf hp]
  rcases hf with hf | hf
  · rw [classification_empty (by simp [h.waiting hf])]
    exact .noAnswer hf hhead rfl rfl
  · exact .frameEnd hf hhead rfl (kind_ne_none _)

/-- Every step of the ENGINE takes a row, or has no answer. -/
theorem fsmEdge_engineStep : FsmEdge { s with inputs := inputs } (engineStep s) := by
  rcases engineStep_cases s with hs | ⟨rest, hf, hw, -⟩ | ⟨e, rest, hf, hw, hs⟩ | ⟨b, rest, hf, hp, -⟩ |
    ⟨rest, hf, hp, -⟩ | ⟨e, rest, hf, hp, hs⟩
  · rw [hs]; exact .stay rfl rfl
  · exact fsmEdge_sent h inputs hf hw
  · rw [hs]; exact .sendError e hf (congrArg List.head? hw) rfl rfl rfl
  · exact fsmEdge_byte h inputs hf hp
  · exact fsmEdge_noByte h inputs hf hp
  · rw [hs]; exact .readError e hf (congrArg List.head? hp) rfl rfl rfl

end

/-! The rows of the commands -/

section
variable {s t : State} {i : Instr}

/-- FRM.GO is the one command that writes `FSM`. -/
theorem fsm_effectOf (hi : i ≠ .frmGo) (s : State) : (effectOf i s).fsm = s.fsm := by
  cases i
  case frmGo => exact absurd rfl hi
  case crcFoldr base len => rw [effectOf, foldrEffect, foldRange_state]; rfl
  case bufRd addr => rw [effectOf, bufRdEffect, memRead_state]; rfl
  all_goals rfl

/-- A command leaves `FSM` alone, or is an FRM.GO that starts a transaction. -/
theorem fsm_of_exec (h : exec i s = .next t) :
    t.fsm = s.fsm ∨ (i = .frmGo ∧ s.fsm = .idle ∧ t.fsm = .sending) := by
  by_cases hf : s.fsm = .idle
  · obtain rfl := Host.Outcome.next.inj ((exec_idle i hf).symm.trans h)
    by_cases hi : i = .frmGo
    · subst hi; exact .inr ⟨rfl, hf, rfl⟩
    · exact .inl (fsm_effectOf hi s)
  · rcases exec_running i hf with hb | ⟨he, hi⟩
    · obtain rfl := Host.Outcome.next.inj (hb.symm.trans h)
      exact .inl rfl
    · obtain rfl := Host.Outcome.next.inj (he.symm.trans h)
      exact .inl (fsm_effectOf (by rintro rfl; simp at hi) s)

/-- The word of a command that runs is FRM.GO's, or the step leaves `FSM` and the port alone. -/
theorem fsmEdge_command {cmd : Word} {rest : List Input} (hin : s.inputs = .command cmd :: rest)
    (hd : decode cmd = .ok i) (he : exec i { s with inputs := rest } = .next t) : FsmEdge s t := by
  rcases fsm_of_exec he with hf | ⟨rfl, hidle, hf⟩
  · exact .stay hf (sameOutside_exec he).portLog
  · obtain rfl : (0xB0000000 : Word) = cmd := encode_of_decode hd
    exact .go hidle (congrArg List.head? hin) hf

theorem fsmEdge_step (h : Inv s) (ht : step s = .next t) : FsmEdge s t := by
  rcases step_cases ht with ⟨_, rfl⟩ | ⟨rest, _, rfl⟩ | ⟨rest, hin, rfl⟩ | ⟨_, rest, _, _, _, rfl⟩ |
    ⟨_, rest, i, hin, hd, he⟩
  · exact fsmEdge_engineStep h s.inputs
  · exact fsmEdge_engineStep (s := { s with inputs := rest }) (h.outside rfl) s.inputs
  · exact .reset (congrArg List.head? hin) rfl rfl
  · exact .stay rfl rfl
  · exact fsmEdge_command hin hd he

/-- By the table, a running transaction that the ENGINE takes to IDLE has latched an
outcome (43_framer_engine.md R116). -/
theorem FsmEdge.latched (h : FsmEdge s t) (hin : s.inputs = []) (hrun : s.fsm ≠ .idle) (hend : t.fsm = .idle) :
    t.resKind ≠ .none := by
  cases h with
  | stay he => exact absurd (he.symm.trans hend) hrun
  | reset hreset => simp [hin] at hreset
  | go hidle => exact absurd hidle hrun
  | sendMore _ _ _ ht | sent _ _ _ _ ht | firstByte _ _ _ ht | nextByte _ _ _ _ ht => simp [ht] at hend
  | broadcast _ _ _ _ _ hk | noAnswer _ _ _ hk | tooLong _ _ _ _ _ hk => simp [hk]
  | sendError _ _ _ _ hk | readError _ _ _ _ hk => simp [hk]
  | frameEnd _ _ _ hk => exact hk

end

end Sys2Proof.Safety
end

section
/-! SUPPORT. How many requests a transaction still makes at most, and that every answered step of the ENGINE lowers the
number (43_framer_engine.md R115). -/

namespace Sys2Proof.Safety

open Sys2Proof.Machine

/-- The writes still to come: one for each byte of the request frame from byte `K` on. -/
def writesLeft (s : State) : Nat :=
  match s.fsm with
  | .sending => s.reqLen.toNat + 4 - s.k.toNat
  | .idle | .waitFirst | .receiving => 0

/-- The most reads still to come: the 257th byte ends a frame. -/
def readsLeft (s : State) : Nat :=
  match s.fsm with
  | .sending => 257
  | .waitFirst | .receiving => 257 - s.i.toNat
  | .idle => 0

/-- The port has an answer for every request still to come. -/
structure Answered (s : State) : Prop where
  writes : writesLeft s ≤ s.portWrites.length
  reads : readsLeft s ≤ s.portReads.length

section
variable {s t : State}

theorem writesLeft_sending (h : s.fsm = .sending) : writesLeft s = s.reqLen.toNat + 4 - s.k.toNat := by
  simp [writesLeft, h]

theorem readsLeft_sending (h : s.fsm = .sending) : readsLeft s = 257 := by
  simp [readsLeft, h]

theorem writesLeft_reading (h : s.fsm = .waitFirst ∨ s.fsm = .receiving) : writesLeft s = 0 := by
  rcases h with h | h <;> simp [writesLeft, h]

theorem readsLeft_reading (h : s.fsm = .waitFirst ∨ s.fsm = .receiving) :
    readsLeft s = 257 - s.i.toNat := by
  rcases h with h | h <;> simp [readsLeft, h]

/-- `t` is one request nearer to the end than `s`, and the port still answers all that are left. -/
structure Nearer (s t : State) : Prop where
  answered : Answered t
  fewer : writesLeft t + readsLeft t < writesLeft s + readsLeft s

/-- From a running transaction IDLE is nearer to the end. -/
theorem Nearer.of_idle (ht : t.fsm = .idle) (hs : 0 < writesLeft s + readsLeft s) : Nearer s t := by
  have hw : writesLeft t = 0 := by simp [writesLeft, ht]
  have hr : readsLeft t = 0 := by simp [readsLeft, ht]
  exact ⟨⟨by omega, by omega⟩, by omega⟩

theorem Nearer.of_write {a : WriteAnswer} {rest : List WriteAnswer} (ha : Answered s) (hf : s.fsm = .sending)
    (hw : s.portWrites = a :: rest) (hwrites : writesLeft (engineStep s) < writesLeft s)
    (hreads : readsLeft (engineStep s) ≤ readsLeft s) : Nearer s (engineStep s) := by
  obtain ⟨-, hsame, htaken, -⟩ := engineStep_write hf hw
  have hleft : s.portWrites.length = (engineStep s).portWrites.length + 1 := by rw [hw, htaken]; rfl
  have haw := ha.writes
  exact ⟨⟨by omega, hsame ▸ hreads.trans ha.reads⟩, by omega⟩

theorem Nearer.of_read {a : ReadAnswer} {rest : List ReadAnswer} (ha : Answered s)
    (hf : s.fsm = .waitFirst ∨ s.fsm = .receiving) (hp : s.portReads = a :: rest)
    (hwrites : writesLeft (engineStep s) ≤ writesLeft s)
    (hreads : readsLeft (engineStep s) < readsLeft s) : Nearer s (engineStep s) := by
  obtain ⟨-, htaken, hsame, -⟩ := engineStep_read hf hp
  have hleft : s.portReads.length = (engineStep s).portReads.length + 1 := by rw [hp, htaken]; rfl
  have har := ha.reads
  exact ⟨⟨hsame ▸ hwrites.trans ha.writes, by omega⟩, by omega⟩

/-- Each write is of the next byte, and the last one is followed by the reads. -/
theorem nearer_sending (h : Inv s) (ha : Answered s) (hf : s.fsm = .sending) : Nearer s (engineStep s) := by
  have hbound := (h.sending hf).bound
  have hwrites := writesLeft_sending hf
  have hreads := readsLeft_sending hf
  obtain ⟨a, rest, hw⟩ : ∃ a rest, s.portWrites = a :: rest :=
    List.exists_cons_of_length_pos (by have := ha.writes; omega)
  cases a with
  | xerr e => exact .of_idle (by rw [engineStep_sending hf, txStep_xerr hw, finish_fsm]) (by omega)
  | ok =>
    rcases Nat.lt_or_eq_of_le hbound with hk | hk
    · have hk1 : (s.k + 1).toNat = s.k.toNat + 1 := toNat_succ_index (by have := s.reqLen.isLt; omega)
      have hstep := engineStep_sendMore hf hk hw
      have hrun : (engineStep s).fsm = .sending := by rw [hstep]; exact hf
      refine .of_write ha hf hw ?_ (by rw [readsLeft_sending hrun, hreads])
      rw [writesLeft_sending hrun, hwrites, hstep]
      show s.reqLen.toNat + 4 - (s.k + 1).toNat < _
      omega
    · have hstep := engineStep_sendCrcHigh hf hw hk
      by_cases ht : s.timeout = 0
      · rw [txDone_broadcast (s := afterWrite s _ .ok rest) ht] at hstep
        exact .of_idle (by rw [hstep, finish_fsm]) (by omega)
      · rw [txDone_wait (s := afterWrite s _ .ok rest) ht] at hstep
        have hwait : (engineStep s).fsm = .waitFirst ∨ (engineStep s).fsm = .receiving :=
          .inl (by rw [hstep])
        exact .of_write ha hf hw (by rw [writesLeft_reading hwait]; omega)
          (by rw [readsLeft_reading hwait]; omega)

/-- Each read is of the next byte, and the 257th ends the transaction. -/
theorem nearer_reading (h : Inv s) (ha : Answered s) (hf : s.fsm = .waitFirst ∨ s.fsm = .receiving) :
    Nearer s (engineStep s) := by
  have hbound := (h.reception hf).2.bound
  have hwrites := writesLeft_reading hf
  have hreads := readsLeft_reading hf
  obtain ⟨a, rest, hp⟩ : ∃ a rest, s.portReads = a :: rest :=
    List.exists_cons_of_length_pos (by have := ha.reads; omega)
  cases a with
  | xerr e => exact .of_idle (by rw [engineStep_readError hf hp, finish_fsm]) (by omega)
  | noByte => exact .of_idle (by rw [engineStep_noByte hf hp, finish_fsm]) (by omega)
  | byte b =>
    rcases Nat.lt_or_ge 255 s.i.toNat with hi | hi
    · exact .of_idle (by rw [engineStep_tooLong hf hp hi, finish_fsm]) (by omega)
    · have hi1 : (s.i + 1).toNat = s.i.toNat + 1 := toNat_succ_index (by omega)
      have hstep := engineStep_counted hf hp hi
      have hrun : (engineStep s).fsm = .waitFirst ∨ (engineStep s).fsm = .receiving :=
        .inr (by rw [hstep])
      refine .of_read ha hf hp (by rw [writesLeft_reading hrun, hwrites]) ?_
      rw [readsLeft_reading hrun, hreads, hstep, hi1]
      omega

theorem nearer_engineStep (h : Inv s) (ha : Answered s) (hf : s.fsm ≠ .idle) : Nearer s (engineStep s) := by
  obtain ⟨phase, hphase⟩ : ∃ phase, s.fsm = phase := ⟨_, rfl⟩
  cases phase with
  | idle => exact absurd hphase hf
  | sending => exact nearer_sending h ha hphase
  | waitFirst => exact nearer_reading h ha (.inl hphase)
  | receiving => exact nearer_reading h ha (.inr hphase)

/-- With nothing else pending and every request answered, the ENGINE ends the transaction in at most as many steps as
requests are left. -/
theorem ends_within (n : Nat) (h : Inv s) (ha : Answered s) (hin : s.inputs = []) (hf : s.fsm ≠ .idle)
    (hn : writesLeft s + readsLeft s ≤ n) :
    ∃ m ≤ n, (engineStep^[m] s).fsm = .idle ∧ (engineStep^[m] s).resKind ≠ .none := by
  induction n generalizing s with
  | zero => exact absurd (nearer_engineStep h ha hf).fewer (by omega)
  | succ n ih =>
    obtain ⟨hnext, hfewer⟩ := nearer_engineStep h ha hf
    by_cases hend : (engineStep s).fsm = .idle
    · exact ⟨1, by omega, hend, (fsmEdge_engineStep h s.inputs).latched hin hf hend⟩
    · obtain ⟨m, hm, hrun⟩ :=
        ih (inv_engineStep h) hnext ((engineStep_inputs s).trans hin) hend (by omega)
      exact ⟨m + 1, by omega, hrun⟩

/-- A running transaction has at most its frame's writes and 257 reads left. -/
theorem requestsLeft_le (hf : s.fsm ≠ .idle) :
    writesLeft s ≤ s.reqLen.toNat + 4 ∧ readsLeft s ≤ 257 := by
  obtain ⟨phase, hphase⟩ : ∃ phase, s.fsm = phase := ⟨_, rfl⟩
  cases phase with
  | idle => exact absurd hphase hf
  | sending => rw [writesLeft_sending hphase, readsLeft_sending hphase]; omega
  | waitFirst => rw [writesLeft_reading (.inl hphase), readsLeft_reading (.inl hphase)]; omega
  | receiving => rw [writesLeft_reading (.inr hphase), readsLeft_reading (.inr hphase)]; omega

end

end Sys2Proof.Safety
end

section
/-! The statements about the transitions of `FSM` and the length of a transaction. -/

namespace Sys2Proof.Proofs

open Sys2Proof.Machine Sys2Proof.Safety

/-- Settles O50, by the cases of a step: the ENGINE's rows by the port's answer, and of the commands FRM.GO alone. -/
theorem everyStepTakesATableTransition : Obligations.EveryStepTakesATableTransition :=
  fun _ _ h ht => fsmEdge_step h ht

/-- Settles O55: each step of the ENGINE lowers the number of requests still to come. -/
theorem transactionEndsInBoundedSteps : Obligations.TransactionEndsInBoundedSteps := by
  intro s h hf hin hwrites hreads
  obtain ⟨hw, hr⟩ := requestsLeft_le hf
  obtain ⟨n, hn, hidle, hlatched⟩ :=
    ends_within _ h ⟨hw.trans hwrites, hr.trans hreads⟩ hin hf (Nat.add_le_add hw hr)
  exact ⟨n, _, hn, stepN_nothingPending n hin, hidle, hlatched⟩

end Sys2Proof.Proofs
end

section
/-! SUPPORT. The answer of an accepted command, and the steps of the host port one by one (60_exceptions.md R117, R118,
R124; 30_encoding.md R72). -/

namespace Sys2Proof.Safety

open Sys2Proof.Machine

/-- The commands that R118 does not list have their effect whatever `FSM` is. -/
theorem exec_of_not_refused {i : Instr} (hi : refusedInTransaction i = false) (s : State) :
    exec i s = .next (effectOf i s) := by
  cases i
  case crcInit | crcFold | crcRead | frmStat | frmXerr => rfl
  all_goals exact absurd hi.symm Bool.false_ne_true

theorem exec_accepted {i : Instr} {s : State} (h : refusedInTransaction i = false ∨ s.fsm = .idle) :
    exec i s = .next (effectOf i s) :=
  h.elim (fun hi => exec_of_not_refused hi s) (exec_idle i)

/-- FRM.STAT's word is its four registers side by side (42_framer_cmd.md R92). -/
theorem statWord_eq_append (s : State) :
    statWord s = s.fsm.bits ++ s.resKind.bits ++ s.resLen ++ s.resCode := by
  rw [← BitVec.setWidth_eq (s.fsm.bits ++ s.resKind.bits ++ s.resLen ++ s.resCode)]
  simp only [statWord, BitVec.setWidth_append_eq_shiftLeft_setWidth_or, BitVec.shiftLeft_or_distrib,
    ← BitVec.shiftLeft_add]

/-- An effect answers OK with the `rdata` of R72's table. -/
theorem response_effectOf (i : Instr) (s : State) :
    (effectOf i s).response = some { ack := .ok, rdata := okData i s } := by
  cases i
  case crcRead => rw [okData, ← crcReadWord_eq]; rfl
  case frmStat => rw [okData, ← statWord_eq_append]; rfl
  all_goals rfl

/-- The pending inputs are no part of an answer: of the state, BUF.RD reads the memory and the draws alone. -/
theorem okData_withInputs (i : Instr) (s : State) (inputs : List Input) :
    okData i { s with inputs := inputs } = okData i s := by
  cases i
  case bufRd addr => simp only [okData, memRead_eq_rangeByte]
  all_goals rfl

section
variable {s : State} {cmd : Word} {rest : List Input} {i : Instr}
  (h : s.inputs = .command cmd :: rest) (hd : decode cmd = .ok i)
include h hd

theorem step_busy (hi : refusedInTransaction i = true) (hf : s.fsm ≠ .idle) :
    step s = .next { s with inputs := rest, response := some { ack := .busy, rdata := 0 } } := by
  rw [step_command h, hostStep_command hd, busyInTransaction hi { s with inputs := rest } hf]

theorem step_accepted (ha : refusedInTransaction i = false ∨ s.fsm = .idle) :
    step s = .next (effectOf i { s with inputs := rest }) := by
  rw [step_command h, hostStep_command hd, exec_accepted (s := { s with inputs := rest }) ha]

end

/-- Whatever is pending is taken, and a command is rejected or runs. -/
theorem step_next (s : State) : ∃ t, step s = .next t := by
  cases h : s.inputs with
  | nil => exact ⟨_, step_nothingPending h⟩
  | cons x rest =>
    cases x with
    | engineTurn => exact ⟨_, step_engineTurn h⟩
    | reset => exact ⟨_, step_reset h⟩
    | command cmd =>
      rw [step_command h]
      cases hd : decode cmd with
      | error e => exact ⟨_, hostStep_illegal hd _⟩
      | ok i => rw [hostStep_command hd]; exact exec_next i _

/-- The codes without a name (60_exceptions.md R120). -/
theorem slaveException_eq_none_iff :
    ∀ c : Byte, slaveException c = none ↔ c = 0x00 ∨ c = 0x09 ∨ 0x0C ≤ c.toNat := by decide

end Sys2Proof.Safety
end

section
/-! The statements about the rejections, the answers and the endings. -/

namespace Sys2Proof.Proofs

open Sys2Proof.Machine Sys2Proof.Safety

/-- Settles O29: a word that does not decode is answered ILLEGAL, a listed command during a transaction BUSY, and every
other one has its effect, which answers OK with its row of the table. -/
theorem checksRunInOrder : Obligations.ChecksRunInOrder := by
  refine ⟨fun s cmd rest h => ⟨fun hd => step_illegal hd h, fun i hd => step_busy h hd, fun i hd ha => ?_⟩,
    rfl, rfl, rfl, fun a => ?_⟩
  · exact ⟨_, step_accepted h hd ha, by rw [response_effectOf, okData_withInputs]⟩
  · cases a <;> decide

/-- Settles O30: the listed commands are refused, and each of the others has its effect in every state. -/
theorem busyRefusesExactlyTheListedCommands : Obligations.BusyRefusesExactlyTheListedCommands :=
  fun i => ⟨busyInTransaction, fun hi s => ⟨_, _, exec_of_not_refused hi s, response_effectOf i s⟩⟩

/-- Settles O32, by the oldest pending input. -/
theorem stepAlwaysAnswersANextState : Obligations.StepAlwaysAnswersANextState :=
  step_next

/-- Settles O48: each ending has its kind, its code, its length and its error value. -/
theorem finishLatchesOutcome : Obligations.FinishLatchesOutcome :=
  fun _ => ⟨fun _ => rfl, rfl, rfl, rfl, rfl, rfl, fun _ => rfl⟩

/-- Settles O49: `finish` latches `EXC_CODE` as it is, named or not. -/
theorem exceptionCodesAreReportedRaw : Obligations.ExceptionCodesAreReportedRaw :=
  ⟨fun s => ⟨finish_resKind .exception s, finish_resCode .exception s⟩,
    rfl, rfl, rfl, rfl, rfl, rfl, rfl, rfl, rfl, rfl, slaveException_eq_none_iff⟩

end Sys2Proof.Proofs
end

section
/-! SUPPORT. The ENGINE beside the host: neither the answer to the last command nor the pending inputs are read by it
(60_exceptions.md R126, 70_reset_and_hazards.md R144), and what the CRC register commands do. -/

namespace Sys2Proof.Machine

/-- The state with another answer to the last command and other pending inputs, as a HOST step leaves them. -/
@[simps] def State.withHostSide (r : Option Response) (xs : List Input) (s : State) : State :=
  { s with response := r, inputs := xs }

/-! Putting another answer and other inputs commutes with each part of an ENGINE step -/

section
variable (r : Option Response) (xs : List Input) (s : State)

theorem memRead_withHostSide (a : Byte) :
    memRead a (s.withHostSide r xs) = ((memRead a s).1, (memRead a s).2.withHostSide r xs) := by
  cases h : Memory.read s.buf a with
  | none => rw [memRead_unwritten h, memRead_unwritten (s := s.withHostSide r xs) h]; rfl
  | some v => rw [memRead_written h, memRead_written (s := s.withHostSide r xs) h]

theorem txByte_withHostSide :
    txByte (s.withHostSide r xs) = ((txByte s).1, (txByte s).2.withHostSide r xs) := by
  simp only [txByte, memRead_withHostSide, State.withHostSide_k, State.withHostSide_slave,
    State.withHostSide_func, State.withHostSide_reqLen, State.withHostSide_reqBase, State.withHostSide_frCrc]
  split_ifs <;> rfl

theorem txDone_withHostSide : txDone (s.withHostSide r xs) = (txDone s).withHostSide r xs := by
  by_cases h : s.timeout = 0
  · rw [txDone_broadcast h, txDone_broadcast (s := s.withHostSide r xs) h]; rfl
  · rw [txDone_wait h, txDone_wait (s := s.withHostSide r xs) h]; rfl

theorem txAccepted_withHostSide (b : Byte) :
    txAccepted b (s.withHostSide r xs) = (txAccepted b s).withHostSide r xs := by
  rcases Nat.lt_trichotomy s.k.toNat (s.reqLen.toNat + 2) with h | h | h
  · rw [txAccepted_body b h, txAccepted_body (s := s.withHostSide r xs) b h]; rfl
  · rw [txAccepted_crcLow b h, txAccepted_crcLow (s := s.withHostSide r xs) b h]; rfl
  · rw [txAccepted_crcHigh b h, txAccepted_crcHigh (s := s.withHostSide r xs) b h, txDone_withHostSide]

theorem storeByte_withHostSide (b : Byte) (exc : Bool) :
    storeByte b exc (s.withHostSide r xs) = (storeByte b exc s).withHostSide r xs := by
  simp only [storeByte, State.withHostSide_i, State.withHostSide_rspLen]
  split_ifs <;> rfl

theorem onByte_withHostSide (b : Byte) :
    onByte b (s.withHostSide r xs) = (onByte b s).withHostSide r xs := by
  rcases Nat.lt_or_ge 255 s.i.toNat with h | h
  · rw [onByte_tooLong b h, onByte_tooLong (s := s.withHostSide r xs) b h]; rfl
  · rw [onByte_counted b h, onByte_counted (s := s.withHostSide r xs) b h, storeByte_withHostSide]; rfl

theorem txStep_withHostSide : txStep (s.withHostSide r xs) = (txStep s).withHostSide r xs := by
  rcases h : s.portWrites with _ | ⟨_ | e, rest⟩
  · rw [txStep_noAnswer h, txStep_noAnswer (s := s.withHostSide r xs) h]
  · rw [txStep_ok h, txStep_ok (s := s.withHostSide r xs) h, txByte_withHostSide, ← txAccepted_withHostSide]
    rfl
  · rw [txStep_xerr h, txStep_xerr (s := s.withHostSide r xs) h, txByte_withHostSide]; rfl

theorem rxStep_withHostSide : rxStep (s.withHostSide r xs) = (rxStep s).withHostSide r xs := by
  rcases h : s.portReads with _ | ⟨b | _ | e, rest⟩
  · rw [rxStep_noAnswer h, rxStep_noAnswer (s := s.withHostSide r xs) h]
  · rw [rxStep_byte h, rxStep_byte (s := s.withHostSide r xs) h, ← onByte_withHostSide]; rfl
  · rw [rxStep_noByte h, rxStep_noByte (s := s.withHostSide r xs) h]; rfl
  · rw [rxStep_xerr h, rxStep_xerr (s := s.withHostSide r xs) h]; rfl

/-- An ENGINE step neither reads nor writes the answer and the pending inputs. -/
theorem engineStep_withHostSide : engineStep (s.withHostSide r xs) = (engineStep s).withHostSide r xs := by
  cases h : s.fsm with
  | idle => rw [engineStep_idle h, engineStep_idle (s := s.withHostSide r xs) h]
  | sending =>
    rw [engineStep_sending h, engineStep_sending (s := s.withHostSide r xs) h, txStep_withHostSide]
  | waitFirst =>
    rw [engineStep_reading (.inl h), engineStep_reading (s := s.withHostSide r xs) (.inl h),
      rxStep_withHostSide]
  | receiving =>
    rw [engineStep_reading (.inr h), engineStep_reading (s := s.withHostSide r xs) (.inr h),
      rxStep_withHostSide]

theorem engineStep_response : (engineStep s).response = s.response := by rw [engineStep_state]

theorem engineStep_withInputs : engineStep { s with inputs := xs } = { engineStep s with inputs := xs } :=
  calc engineStep (s.withHostSide s.response xs)
      = (engineStep s).withHostSide s.response xs := engineStep_withHostSide _ xs s
    _ = { engineStep s with inputs := xs } := by rw [← engineStep_response s]; rfl

/-- A turn of the ENGINE, the pending inputs beside it. -/
theorem step_engineTurn_withInputs :
    step { s with inputs := .engineTurn :: xs } = .next { engineStep s with inputs := xs } := by
  rw [step_engineTurn rfl, ← engineStep_withInputs]

end

/-! The CRC register commands -/

/-- CRC.INIT, CRC.FOLD and CRC.READ: the commands on the CRC register alone (40_crc.md section 2). -/
def IsCrcRegisterCommand (i : Instr) : Prop := i = .crcInit ∨ (∃ b, i = .crcFold b) ∨ i = .crcRead

/-- Each of them puts a value into `CRC_ACC` and answers a word, both of `CRC_ACC` alone. -/
theorem effectOf_crcRegister {i : Instr} (hi : IsCrcRegisterCommand i) :
    ∃ (acc : Half → Half) (word : Half → Word), ∀ s : State,
      effectOf i s =
        { s with crcAcc := acc s.crcAcc, response := some { ack := .ok, rdata := word s.crcAcc } } := by
  rcases hi with rfl | ⟨b, rfl⟩ | rfl
  · exact ⟨fun _ => Config.crcInit, fun _ => 0, fun _ => rfl⟩
  · exact ⟨fun c => fold c b, fun _ => 0, fun _ => rfl⟩
  · exact ⟨id, crcReadWord, fun _ => rfl⟩

/-- So the command before an ENGINE step and the command after it are the same. -/
theorem engineStep_effectOf_crcRegister {i : Instr} (hi : IsCrcRegisterCommand i) (s : State) :
    engineStep (effectOf i s) = effectOf i (engineStep s) := by
  obtain ⟨acc, word, heffect⟩ := effectOf_crcRegister hi
  have hcrc : (engineStep s).crcAcc = s.crcAcc := by rw [engineStep_state]
  let r : Option Response := some { ack := .ok, rdata := word s.crcAcc }
  calc engineStep (effectOf i s)
      = engineStep (({ s with crcAcc := acc s.crcAcc }).withHostSide r s.inputs) := by rw [heffect]; rfl
    _ = (engineStep { s with crcAcc := acc s.crcAcc }).withHostSide r s.inputs := engineStep_withHostSide r _ _
    _ = ({ engineStep s with crcAcc := acc s.crcAcc }).withHostSide r s.inputs := by rw [engineStep_withCrcAcc]
    _ = effectOf i (engineStep s) := by
      rw [heffect, hcrc, ← Safety.engineStep_inputs s]; rfl

end Sys2Proof.Machine
end

section
/-! SUPPORT. A CRC register command and a turn of the ENGINE, one after the other. -/

namespace Sys2Proof.Safety

open Sys2Proof.Machine

section
variable {i : Instr} (hi : IsCrcRegisterCommand i) (s : State) (rest : List Input)
include hi

/-- A HOST step with the word of one has its effect, whatever `FSM` is. -/
theorem step_crcRegister :
    step { s with inputs := .command (encode i) :: rest } = .next { effectOf i s with inputs := rest } := by
  have hdecode : decode (encode i) = .ok i := decode_encode (by rcases hi with rfl | ⟨_, rfl⟩ | rfl <;> rfl)
  have hlisted : refusedInTransaction i = false := by rcases hi with rfl | ⟨_, rfl⟩ | rfl <;> rfl
  obtain ⟨acc, word, heffect⟩ := effectOf_crcRegister hi
  rw [step_accepted rfl hdecode (.inl hlisted), heffect, heffect]

theorem run_crcRegister_engineTurn :
    stepN 2 { s with inputs := .command (encode i) :: .engineTurn :: rest } =
      .next { engineStep (effectOf i s) with inputs := rest } := by
  rw [stepN_succ_of_step (step_crcRegister hi s (.engineTurn :: rest)),
    stepN_succ_of_step (step_engineTurn_withInputs rest (effectOf i s)), stepN]

theorem run_engineTurn_crcRegister :
    stepN 2 { s with inputs := .engineTurn :: .command (encode i) :: rest } =
      .next { effectOf i (engineStep s) with inputs := rest } := by
  rw [stepN_succ_of_step (step_engineTurn_withInputs (.command (encode i) :: rest) s),
    stepN_succ_of_step (step_crcRegister hi (engineStep s) rest), stepN]

end

end Sys2Proof.Safety
end

section
/-! The statements about the reset state and about hazards. -/

namespace Sys2Proof.Proofs

open Sys2Proof.Machine Sys2Proof.Safety

/-- Settles O51: the reset state is what the reset input makes of it. -/
theorem invariantHoldsAtReset : Obligations.InvariantHoldsAtReset :=
  inv_resetBlock State.reset

/-- Settles O58: the command reads and writes `CRC_ACC` and the answer only, and the ENGINE neither. -/
theorem crcCommandsCommuteWithEngine : Obligations.CrcCommandsCommuteWithEngine := by
  intro s i rest hi
  refine ⟨_, run_crcRegister_engineTurn hi s rest, ?_⟩
  rw [run_engineTurn_crcRegister hi s rest, engineStep_effectOf_crcRegister hi s]

end Sys2Proof.Proofs
end
